-- ==== Sys2Proof/Word.lean ====
section
/-! DEFINITION. The word types of the block (00_scope.md R6, R7). -/

namespace Sys2Proof

/-- A memory byte, a general register or a timer: 8 bits (R6). -/
abbrev Byte := BitVec 8

/-- An instruction word, the index register or the program counter: 16 bits (R6, R7). -/
abbrev Word := BitVec 16

/-- A nibble: 4 bits (30_encoding.md R49). -/
abbrev Nibble := BitVec 4

/-- The index of a general register V0..VF (10_state.md R15). -/
abbrev RegIx := Fin 16

/-- The 16-key snapshot: bit k is 1 when key k is down (40_cycle_and_operands.md R68). -/
abbrev KeySet := BitVec 16

end Sys2Proof
end

