-- ==== Sys2Proof/Syntax.lean ====
section
/-! DEFINITION. The instructions: one constructor per row of spec/opcode_table.json (30_encoding.md R59),
in the table's order. Fields are those of R50: `x`, `y` register indices, `n`, `kk`, `nnn` literals. -/

namespace Sys2Proof

/-- The 35 instructions of R59. -/
inductive Instr where
  | cls                                  -- row 1,  00E0 CLS
  | ret                                  -- row 2,  00EE RET
  | sys (nnn : BitVec 12)                -- row 3,  0NNN SYS nnn
  | jp (nnn : BitVec 12)                 -- row 4,  1NNN JP nnn
  | call (nnn : BitVec 12)               -- row 5,  2NNN CALL nnn
  | seVxKk (x : RegIx) (kk : Byte)       -- row 6,  3XKK SE Vx, kk
  | sneVxKk (x : RegIx) (kk : Byte)      -- row 7,  4XKK SNE Vx, kk
  | seVxVy (x y : RegIx)                 -- row 8,  5XY0 SE Vx, Vy
  | ldVxKk (x : RegIx) (kk : Byte)       -- row 9,  6XKK LD Vx, kk
  | addVxKk (x : RegIx) (kk : Byte)      -- row 10, 7XKK ADD Vx, kk
  | ldVxVy (x y : RegIx)                 -- row 11, 8XY0 LD Vx, Vy
  | orVxVy (x y : RegIx)                 -- row 12, 8XY1 OR Vx, Vy
  | andVxVy (x y : RegIx)                -- row 13, 8XY2 AND Vx, Vy
  | xorVxVy (x y : RegIx)                -- row 14, 8XY3 XOR Vx, Vy
  | addVxVy (x y : RegIx)                -- row 15, 8XY4 ADD Vx, Vy
  | subVxVy (x y : RegIx)                -- row 16, 8XY5 SUB Vx, Vy
  | shrVxVy (x y : RegIx)                -- row 17, 8XY6 SHR Vx, Vy
  | subnVxVy (x y : RegIx)               -- row 18, 8XY7 SUBN Vx, Vy
  | shlVxVy (x y : RegIx)                -- row 19, 8XYE SHL Vx, Vy
  | sneVxVy (x y : RegIx)                -- row 20, 9XY0 SNE Vx, Vy
  | ldINnn (nnn : BitVec 12)             -- row 21, ANNN LD I, nnn
  | jpV0 (nnn : BitVec 12)               -- row 22, BNNN JP V0, nnn
  | rnd (x : RegIx) (kk : Byte)          -- row 23, CXKK RND Vx, kk
  | drw (x y : RegIx) (n : Nibble)       -- row 24, DXYN DRW Vx, Vy, n
  | skp (x : RegIx)                      -- row 25, EX9E SKP Vx
  | sknp (x : RegIx)                     -- row 26, EXA1 SKNP Vx
  | ldVxDt (x : RegIx)                   -- row 27, FX07 LD Vx, DT
  | ldVxK (x : RegIx)                    -- row 28, FX0A LD Vx, K
  | ldDtVx (x : RegIx)                   -- row 29, FX15 LD DT, Vx
  | ldStVx (x : RegIx)                   -- row 30, FX18 LD ST, Vx
  | addIVx (x : RegIx)                   -- row 31, FX1E ADD I, Vx
  | ldFVx (x : RegIx)                    -- row 32, FX29 LD F, Vx
  | ldBVx (x : RegIx)                    -- row 33, FX33 LD B, Vx
  | ldIndVx (x : RegIx)                  -- row 34, FX55 LD [I], Vx
  | ldVxInd (x : RegIx)                  -- row 35, FX65 LD Vx, [I]
deriving DecidableEq, Repr

end Sys2Proof
end

