-- ==== Sys2Proof/Decode.lean ====
section
/-! DEFINITION. The decoder of 30_encoding.md: nibbles and fields (R49, R50), coding patterns with their masks
(R51-R53), first match over the 35-row table (R54, R59), operand extraction (R55-R57). After it the encoder,
written from the word formats of R50 and R59, the byte form of both, and the assembler spelling (R67). -/

namespace Sys2Proof

/-! ## Fields of a word -/

/-- Nibble i of a word: `w[4i+3:4i]` (R49). -/
def nibble (w : Word) (i : Nat) : Nibble := w.extractLsb' (4 * i) 4

/-- The four nibbles, most significant first (R49). -/
def nibbles (w : Word) : List Nibble := [nibble w 3, nibble w 2, nibble w 1, nibble w 0]

/-- Field `x`: `w[11:8]` (R50). -/
def xField (w : Word) : RegIx := (nibble w 2).toFin

/-- Field `y`: `w[7:4]` (R50). -/
def yField (w : Word) : RegIx := (nibble w 1).toFin

/-- Field `n`: `w[3:0]` (R50). -/
def nField (w : Word) : Nibble := nibble w 0

/-- Field `kk`: `w[7:0]` (R50). -/
def kkField (w : Word) : Byte := w.extractLsb' 0 8

/-- Field `nnn`: `w[11:0]` (R50). -/
def nnnField (w : Word) : BitVec 12 := w.extractLsb' 0 12

/-! ## Operands, operations and definitions -/

/-- The nine operand kinds of a slot (R56). -/
inductive OperandKind where
  | register | indexRegister | indirectViaIndex
  | immediate12 | immediate8 | immediate4
  | delayTimer | soundTimer | unused
deriving DecidableEq, Repr

/-- An operand: a location descriptor, not a value (R56). -/
inductive Operand where
  | register (r : RegIx)
  | indexRegister
  | indirectViaIndex
  | immediate12 (v : BitVec 12)
  | immediate8 (v : BitVec 8)
  | immediate4 (v : BitVec 4)
  | delayTimer
  | soundTimer
  | unused
deriving DecidableEq, Repr

/-- The kind of an operand (R56). -/
def Operand.kind : Operand → OperandKind
  | .register _ => .register
  | .indexRegister => .indexRegister
  | .indirectViaIndex => .indirectViaIndex
  | .immediate12 _ => .immediate12
  | .immediate8 _ => .immediate8
  | .immediate4 _ => .immediate4
  | .delayTimer => .delayTimer
  | .soundTimer => .soundTimer
  | .unused => .unused

/-- The closed enumeration of 26 operations (R60). -/
inductive Operation where
  | add | sub | subN | or | and | xor | shiftRight | shiftLeft
  | load | font | bcd | rand
  | skipEq | skipNeq | skipKey | skipNKey
  | jump | jumpV0 | call | ret | sys
  | cls | sprite | stash | fetch | waitKey
deriving DecidableEq, Repr

/-- One nibble of a coding pattern: a fixed constant, or the marker of a slot (R51). -/
inductive CodingNibble where
  | fixed (h : Nibble)
  | dest
  | src
  | aux
deriving DecidableEq, Repr

/-- The raw values the decoder accumulates for the three slots (R55). -/
structure RawFields where
  d : Nat
  s : Nat
  a : Nat
deriving DecidableEq, Repr

/-- An instruction definition: operation, three operand kinds, coding pattern, mnemonic (R51). `build` is
the constructor of `Instr` the row stands for, applied to the raw values. -/
structure InstrDef where
  mnemonic : String
  coding : List CodingNibble
  operation : Operation
  destKind : OperandKind
  srcKind : OperandKind
  auxKind : OperandKind
  build : RawFields → Instr

/-- The result of a successful decode: the operation of the matched definition and its three operands
(R58). -/
structure Decoded where
  operation : Operation
  dest : Operand
  src : Operand
  aux : Operand
deriving DecidableEq, Repr

/-! ## Match -/

/-- The match mask of a coding pattern (R52). -/
def codingMask (c : List CodingNibble) : Word :=
  c.foldl (fun m n => (m <<< 4) ||| (match n with | .fixed _ => 0xF#16 | _ => 0#16)) 0#16

/-- The match value of a coding pattern (R52). -/
def codingValue (c : List CodingNibble) : Word :=
  c.foldl (fun m n => (m <<< 4) ||| (match n with | .fixed h => h.setWidth 16 | _ => 0#16)) 0#16

/-- A word matches a definition (R53). -/
def InstrDef.accepts (d : InstrDef) (w : Word) : Bool :=
  (w &&& codingMask d.coding) == (codingValue d.coding &&& codingMask d.coding)

/-! ## Operand extraction -/

/-- One nibble added to the accumulator its marker names (R55). -/
def accumulate (raw : RawFields) (p : CodingNibble × Nibble) : RawFields :=
  match p.1 with
  | .dest => { raw with d := (raw.d <<< 4) ||| p.2.toNat }
  | .src => { raw with s := (raw.s <<< 4) ||| p.2.toNat }
  | .aux => { raw with a := (raw.a <<< 4) ||| p.2.toNat }
  | .fixed _ => raw

/-- The raw values of the three slots, by one scan from left to right (R55). -/
def extractRaw (c : List CodingNibble) (w : Word) : RawFields :=
  (c.zip (nibbles w)).foldl accumulate { d := 0, s := 0, a := 0 }

/-- A register index from a raw value (R57). -/
def rawReg (r : Nat) : RegIx := Fin.ofNat 16 r

/-- The operand of a declared kind from a raw value (R57). -/
def OperandKind.operand (k : OperandKind) (r : Nat) : Operand :=
  match k with
  | .register => .register (rawReg r)
  | .indexRegister => .indexRegister
  | .indirectViaIndex => .indirectViaIndex
  | .immediate12 => .immediate12 (BitVec.ofNat 12 r)
  | .immediate8 => .immediate8 (BitVec.ofNat 8 r)
  | .immediate4 => .immediate4 (BitVec.ofNat 4 r)
  | .delayTimer => .delayTimer
  | .soundTimer => .soundTimer
  | .unused => .unused

/-- The decoded form of a word under a definition (R57, R58). -/
def InstrDef.decoded (d : InstrDef) (w : Word) : Decoded where
  operation := d.operation
  dest := d.destKind.operand (extractRaw d.coding w).d
  src := d.srcKind.operand (extractRaw d.coding w).s
  aux := d.auxKind.operand (extractRaw d.coding w).a

/-! ## The table (R59) -/

/-- Rows 1 to 10. -/
def tableRows1to10 : List InstrDef := [
  { mnemonic := "CLS", coding := [.fixed 0x0, .fixed 0x0, .fixed 0xE, .fixed 0x0], operation := .cls,
    destKind := .unused, srcKind := .unused, auxKind := .unused, build := fun _ => .cls },
  { mnemonic := "RET", coding := [.fixed 0x0, .fixed 0x0, .fixed 0xE, .fixed 0xE], operation := .ret,
    destKind := .unused, srcKind := .unused, auxKind := .unused, build := fun _ => .ret },
  { mnemonic := "SYS nnn", coding := [.fixed 0x0, .dest, .dest, .dest], operation := .sys,
    destKind := .immediate12, srcKind := .unused, auxKind := .unused,
    build := fun r => .sys (BitVec.ofNat 12 r.d) },
  { mnemonic := "JP nnn", coding := [.fixed 0x1, .dest, .dest, .dest], operation := .jump,
    destKind := .immediate12, srcKind := .unused, auxKind := .unused,
    build := fun r => .jp (BitVec.ofNat 12 r.d) },
  { mnemonic := "CALL nnn", coding := [.fixed 0x2, .dest, .dest, .dest], operation := .call,
    destKind := .immediate12, srcKind := .unused, auxKind := .unused,
    build := fun r => .call (BitVec.ofNat 12 r.d) },
  { mnemonic := "SE Vx, kk", coding := [.fixed 0x3, .dest, .src, .src], operation := .skipEq,
    destKind := .register, srcKind := .immediate8, auxKind := .unused,
    build := fun r => .seVxKk (rawReg r.d) (BitVec.ofNat 8 r.s) },
  { mnemonic := "SNE Vx, kk", coding := [.fixed 0x4, .dest, .src, .src], operation := .skipNeq,
    destKind := .register, srcKind := .immediate8, auxKind := .unused,
    build := fun r => .sneVxKk (rawReg r.d) (BitVec.ofNat 8 r.s) },
  { mnemonic := "SE Vx, Vy", coding := [.fixed 0x5, .dest, .src, .fixed 0x0], operation := .skipEq,
    destKind := .register, srcKind := .register, auxKind := .unused,
    build := fun r => .seVxVy (rawReg r.d) (rawReg r.s) },
  { mnemonic := "LD Vx, kk", coding := [.fixed 0x6, .dest, .src, .src], operation := .load,
    destKind := .register, srcKind := .immediate8, auxKind := .unused,
    build := fun r => .ldVxKk (rawReg r.d) (BitVec.ofNat 8 r.s) },
  { mnemonic := "ADD Vx, kk", coding := [.fixed 0x7, .dest, .src, .src], operation := .add,
    destKind := .register, srcKind := .immediate8, auxKind := .unused,
    build := fun r => .addVxKk (rawReg r.d) (BitVec.ofNat 8 r.s) }]

/-- Rows 11 to 20. -/
def tableRows11to20 : List InstrDef := [
  { mnemonic := "LD Vx, Vy", coding := [.fixed 0x8, .dest, .src, .fixed 0x0], operation := .load,
    destKind := .register, srcKind := .register, auxKind := .unused,
    build := fun r => .ldVxVy (rawReg r.d) (rawReg r.s) },
  { mnemonic := "OR Vx, Vy", coding := [.fixed 0x8, .dest, .src, .fixed 0x1], operation := .or,
    destKind := .register, srcKind := .register, auxKind := .unused,
    build := fun r => .orVxVy (rawReg r.d) (rawReg r.s) },
  { mnemonic := "AND Vx, Vy", coding := [.fixed 0x8, .dest, .src, .fixed 0x2], operation := .and,
    destKind := .register, srcKind := .register, auxKind := .unused,
    build := fun r => .andVxVy (rawReg r.d) (rawReg r.s) },
  { mnemonic := "XOR Vx, Vy", coding := [.fixed 0x8, .dest, .src, .fixed 0x3], operation := .xor,
    destKind := .register, srcKind := .register, auxKind := .unused,
    build := fun r => .xorVxVy (rawReg r.d) (rawReg r.s) },
  { mnemonic := "ADD Vx, Vy", coding := [.fixed 0x8, .dest, .src, .fixed 0x4], operation := .add,
    destKind := .register, srcKind := .register, auxKind := .unused,
    build := fun r => .addVxVy (rawReg r.d) (rawReg r.s) },
  { mnemonic := "SUB Vx, Vy", coding := [.fixed 0x8, .dest, .src, .fixed 0x5], operation := .sub,
    destKind := .register, srcKind := .register, auxKind := .unused,
    build := fun r => .subVxVy (rawReg r.d) (rawReg r.s) },
  { mnemonic := "SHR Vx, Vy", coding := [.fixed 0x8, .dest, .src, .fixed 0x6], operation := .shiftRight,
    destKind := .register, srcKind := .register, auxKind := .unused,
    build := fun r => .shrVxVy (rawReg r.d) (rawReg r.s) },
  { mnemonic := "SUBN Vx, Vy", coding := [.fixed 0x8, .dest, .src, .fixed 0x7], operation := .subN,
    destKind := .register, srcKind := .register, auxKind := .unused,
    build := fun r => .subnVxVy (rawReg r.d) (rawReg r.s) },
  { mnemonic := "SHL Vx, Vy", coding := [.fixed 0x8, .dest, .src, .fixed 0xE], operation := .shiftLeft,
    destKind := .register, srcKind := .register, auxKind := .unused,
    build := fun r => .shlVxVy (rawReg r.d) (rawReg r.s) },
  { mnemonic := "SNE Vx, Vy", coding := [.fixed 0x9, .dest, .src, .fixed 0x0], operation := .skipNeq,
    destKind := .register, srcKind := .register, auxKind := .unused,
    build := fun r => .sneVxVy (rawReg r.d) (rawReg r.s) }]

/-- Rows 21 to 28. -/
def tableRows21to28 : List InstrDef := [
  { mnemonic := "LD I, nnn", coding := [.fixed 0xA, .src, .src, .src], operation := .load,
    destKind := .indexRegister, srcKind := .immediate12, auxKind := .unused,
    build := fun r => .ldINnn (BitVec.ofNat 12 r.s) },
  { mnemonic := "JP V0, nnn", coding := [.fixed 0xB, .dest, .dest, .dest], operation := .jumpV0,
    destKind := .immediate12, srcKind := .unused, auxKind := .unused,
    build := fun r => .jpV0 (BitVec.ofNat 12 r.d) },
  { mnemonic := "RND Vx, kk", coding := [.fixed 0xC, .dest, .src, .src], operation := .rand,
    destKind := .register, srcKind := .immediate8, auxKind := .unused,
    build := fun r => .rnd (rawReg r.d) (BitVec.ofNat 8 r.s) },
  { mnemonic := "DRW Vx, Vy, n", coding := [.fixed 0xD, .dest, .src, .aux], operation := .sprite,
    destKind := .register, srcKind := .register, auxKind := .immediate4,
    build := fun r => .drw (rawReg r.d) (rawReg r.s) (BitVec.ofNat 4 r.a) },
  { mnemonic := "SKP Vx", coding := [.fixed 0xE, .dest, .fixed 0x9, .fixed 0xE], operation := .skipKey,
    destKind := .register, srcKind := .unused, auxKind := .unused,
    build := fun r => .skp (rawReg r.d) },
  { mnemonic := "SKNP Vx", coding := [.fixed 0xE, .dest, .fixed 0xA, .fixed 0x1], operation := .skipNKey,
    destKind := .register, srcKind := .unused, auxKind := .unused,
    build := fun r => .sknp (rawReg r.d) },
  { mnemonic := "LD Vx, DT", coding := [.fixed 0xF, .dest, .fixed 0x0, .fixed 0x7], operation := .load,
    destKind := .register, srcKind := .delayTimer, auxKind := .unused,
    build := fun r => .ldVxDt (rawReg r.d) },
  { mnemonic := "LD Vx, K", coding := [.fixed 0xF, .dest, .fixed 0x0, .fixed 0xA], operation := .waitKey,
    destKind := .register, srcKind := .unused, auxKind := .unused,
    build := fun r => .ldVxK (rawReg r.d) }]

/-- Rows 29 to 35: the X nibble stands under the source marker. -/
def tableRows29to35 : List InstrDef := [
  { mnemonic := "LD DT, Vx", coding := [.fixed 0xF, .src, .fixed 0x1, .fixed 0x5], operation := .load,
    destKind := .delayTimer, srcKind := .register, auxKind := .unused,
    build := fun r => .ldDtVx (rawReg r.s) },
  { mnemonic := "LD ST, Vx", coding := [.fixed 0xF, .src, .fixed 0x1, .fixed 0x8], operation := .load,
    destKind := .soundTimer, srcKind := .register, auxKind := .unused,
    build := fun r => .ldStVx (rawReg r.s) },
  { mnemonic := "ADD I, Vx", coding := [.fixed 0xF, .src, .fixed 0x1, .fixed 0xE], operation := .add,
    destKind := .indexRegister, srcKind := .register, auxKind := .unused,
    build := fun r => .addIVx (rawReg r.s) },
  { mnemonic := "LD F, Vx", coding := [.fixed 0xF, .src, .fixed 0x2, .fixed 0x9], operation := .font,
    destKind := .indexRegister, srcKind := .register, auxKind := .unused,
    build := fun r => .ldFVx (rawReg r.s) },
  { mnemonic := "LD B, Vx", coding := [.fixed 0xF, .src, .fixed 0x3, .fixed 0x3], operation := .bcd,
    destKind := .indirectViaIndex, srcKind := .register, auxKind := .unused,
    build := fun r => .ldBVx (rawReg r.s) },
  { mnemonic := "LD [I], Vx", coding := [.fixed 0xF, .src, .fixed 0x5, .fixed 0x5], operation := .stash,
    destKind := .indirectViaIndex, srcKind := .register, auxKind := .unused,
    build := fun r => .ldIndVx (rawReg r.s) },
  { mnemonic := "LD Vx, [I]", coding := [.fixed 0xF, .src, .fixed 0x6, .fixed 0x5], operation := .fetch,
    destKind := .unused, srcKind := .register, auxKind := .unused,
    build := fun r => .ldVxInd (rawReg r.s) }]

/-- The 35 rows, in the priority order that is the contract of R54 (log 7). -/
def instrTable : List InstrDef :=
  tableRows1to10 ++ tableRows11to20 ++ tableRows21to28 ++ tableRows29to35

/-! ## The decoder -/

/-- Why a decode gives no instruction. -/
inductive DecodeError where
  /-- The word matches no row: the verdict `Miss(w)` (R64). -/
  | miss (w : Word)
  /-- Fewer than the two bytes of a word (R49). -/
  | truncated
deriving DecidableEq, Repr

/-- The first definition a word matches (R54). -/
def findDef (w : Word) : Option InstrDef := instrTable.find? (fun d => d.accepts w)

/-- `decode`: total, by first match (R54, R64). -/
def decode (w : Word) : Except DecodeError Instr :=
  match findDef w with
  | some d => .ok (d.build (extractRaw d.coding w))
  | none => .error (.miss w)

/-- The decode result in the spec's own form, a definition and three operands (R58); none is `Miss(w)`. -/
def decodeOperands (w : Word) : Option Decoded := (findDef w).map (fun d => d.decoded w)

/-- The word of two consecutive bytes: big-endian (20_memory.md R33). -/
def wordOfBytes (hi lo : Byte) : Word := hi ++ lo

/-- The byte at the lower address of a word (R33). -/
def highByte (w : Word) : Byte := w.extractLsb' 8 8

/-- The byte at the higher address of a word (R33). -/
def lowByte (w : Word) : Byte := w.extractLsb' 0 8

/-- Decoding from bytes: the instruction and the rest of the list. -/
def decodeBytes : List Byte → Except DecodeError (Instr × List Byte)
  | hi :: lo :: rest =>
    match decode (wordOfBytes hi lo) with
    | .ok i => .ok (i, rest)
    | .error e => .error e
  | [_] => .error .truncated
  | [] => .error .truncated

/-- The word whose bits are w, of which the table gives nbits (bit 0 the least significant). -/
def tableWord (nbits w : Nat) : Word := BitVec.ofNat 16 (w % 2 ^ nbits)

/-- What the decoder reads from the bytes of a word numbered as the opcode table numbers it. -/
def decodeTableWord (nbits w : Nat) : Option Instr :=
  match decodeBytes [highByte (tableWord nbits w), lowByte (tableWord nbits w)] with
  | .ok (i, _) => some i
  | .error _ => none

/-! ## The encoder -/

/-- A register index as a nibble. -/
def regNibble (r : RegIx) : Nibble := BitVec.ofFin r

/-- Format `op nnn` (R50). -/
def wordNnn (op : Nibble) (nnn : BitVec 12) : Word := op ++ nnn

/-- Format `op x kk` (R50). -/
def wordXKk (op : Nibble) (x : RegIx) (kk : Byte) : Word := op ++ regNibble x ++ kk

/-- Format `op x y n` (R50). -/
def wordXYN (op : Nibble) (x y : RegIx) (n : Nibble) : Word := op ++ regNibble x ++ regNibble y ++ n

/-- The word of an instruction, from the `word` column of R59. -/
def encode : Instr → Word
  | .cls => 0x00E0
  | .ret => 0x00EE
  | .sys nnn => wordNnn 0x0 nnn
  | .jp nnn => wordNnn 0x1 nnn
  | .call nnn => wordNnn 0x2 nnn
  | .seVxKk x kk => wordXKk 0x3 x kk
  | .sneVxKk x kk => wordXKk 0x4 x kk
  | .seVxVy x y => wordXYN 0x5 x y 0x0
  | .ldVxKk x kk => wordXKk 0x6 x kk
  | .addVxKk x kk => wordXKk 0x7 x kk
  | .ldVxVy x y => wordXYN 0x8 x y 0x0
  | .orVxVy x y => wordXYN 0x8 x y 0x1
  | .andVxVy x y => wordXYN 0x8 x y 0x2
  | .xorVxVy x y => wordXYN 0x8 x y 0x3
  | .addVxVy x y => wordXYN 0x8 x y 0x4
  | .subVxVy x y => wordXYN 0x8 x y 0x5
  | .shrVxVy x y => wordXYN 0x8 x y 0x6
  | .subnVxVy x y => wordXYN 0x8 x y 0x7
  | .shlVxVy x y => wordXYN 0x8 x y 0xE
  | .sneVxVy x y => wordXYN 0x9 x y 0x0
  | .ldINnn nnn => wordNnn 0xA nnn
  | .jpV0 nnn => wordNnn 0xB nnn
  | .rnd x kk => wordXKk 0xC x kk
  | .drw x y n => wordXYN 0xD x y n
  | .skp x => wordXKk 0xE x 0x9E
  | .sknp x => wordXKk 0xE x 0xA1
  | .ldVxDt x => wordXKk 0xF x 0x07
  | .ldVxK x => wordXKk 0xF x 0x0A
  | .ldDtVx x => wordXKk 0xF x 0x15
  | .ldStVx x => wordXKk 0xF x 0x18
  | .addIVx x => wordXKk 0xF x 0x1E
  | .ldFVx x => wordXKk 0xF x 0x29
  | .ldBVx x => wordXKk 0xF x 0x33
  | .ldIndVx x => wordXKk 0xF x 0x55
  | .ldVxInd x => wordXKk 0xF x 0x65

/-- The two bytes of an instruction as memory holds them (R33). -/
def encodeBytes (i : Instr) : List Byte := [highByte (encode i), lowByte (encode i)]

/-! ## The assembler spelling (R67; no rule depends on it) -/

/-- One hexadecimal digit. -/
def hexDigit (n : Nibble) : String := "0123456789ABCDEF".toList[n.toNat]?.elim "" (fun c => String.singleton c)

/-- A register: `V0`..`VF`. -/
def asmReg (r : RegIx) : String := "V" ++ hexDigit (regNibble r)

/-- A byte: `0xHH`. -/
def asmByte (b : Byte) : String := "0x" ++ hexDigit (b.extractLsb' 4 4) ++ hexDigit (b.extractLsb' 0 4)

/-- An address: `0xHHH`. -/
def asmAddr (a : BitVec 12) : String :=
  "0x" ++ hexDigit (a.extractLsb' 8 4) ++ hexDigit (a.extractLsb' 4 4) ++ hexDigit (a.extractLsb' 0 4)

/-- A mnemonic with two operands, the destination first. -/
def asm2 (m a b : String) : String := m ++ " " ++ a ++ ", " ++ b

/-- The assembler spelling of an instruction (R67). -/
def disassemble : Instr → String
  | .cls => "CLS"
  | .ret => "RET"
  | .sys nnn => "SYS " ++ asmAddr nnn
  | .jp nnn => "JP " ++ asmAddr nnn
  | .call nnn => "CALL " ++ asmAddr nnn
  | .seVxKk x kk => asm2 "SE" (asmReg x) (asmByte kk)
  | .sneVxKk x kk => asm2 "SNE" (asmReg x) (asmByte kk)
  | .seVxVy x y => asm2 "SE" (asmReg x) (asmReg y)
  | .ldVxKk x kk => asm2 "LD" (asmReg x) (asmByte kk)
  | .addVxKk x kk => asm2 "ADD" (asmReg x) (asmByte kk)
  | .ldVxVy x y => asm2 "LD" (asmReg x) (asmReg y)
  | .orVxVy x y => asm2 "OR" (asmReg x) (asmReg y)
  | .andVxVy x y => asm2 "AND" (asmReg x) (asmReg y)
  | .xorVxVy x y => asm2 "XOR" (asmReg x) (asmReg y)
  | .addVxVy x y => asm2 "ADD" (asmReg x) (asmReg y)
  | .subVxVy x y => asm2 "SUB" (asmReg x) (asmReg y)
  | .shrVxVy x y => asm2 "SHR" (asmReg x) (asmReg y)
  | .subnVxVy x y => asm2 "SUBN" (asmReg x) (asmReg y)
  | .shlVxVy x y => asm2 "SHL" (asmReg x) (asmReg y)
  | .sneVxVy x y => asm2 "SNE" (asmReg x) (asmReg y)
  | .ldINnn nnn => asm2 "LD" "I" (asmAddr nnn)
  | .jpV0 nnn => asm2 "JP" "V0" (asmAddr nnn)
  | .rnd x kk => asm2 "RND" (asmReg x) (asmByte kk)
  | .drw x y n => asm2 "DRW" (asmReg x) (asmReg y) ++ ", " ++ Nat.repr n.toNat
  | .skp x => "SKP " ++ asmReg x
  | .sknp x => "SKNP " ++ asmReg x
  | .ldVxDt x => asm2 "LD" (asmReg x) "DT"
  | .ldVxK x => asm2 "LD" (asmReg x) "K"
  | .ldDtVx x => asm2 "LD" "DT" (asmReg x)
  | .ldStVx x => asm2 "LD" "ST" (asmReg x)
  | .addIVx x => asm2 "ADD" "I" (asmReg x)
  | .ldFVx x => asm2 "LD" "F" (asmReg x)
  | .ldBVx x => asm2 "LD" "B" (asmReg x)
  | .ldIndVx x => asm2 "LD" "[I]" (asmReg x)
  | .ldVxInd x => asm2 "LD" (asmReg x) "[I]"

end Sys2Proof
end

