-- ==== Sys2Proof/Machine/Flags.lean ====
section
/-! DEFINITION. The values VF takes (10_state.md R20): one function per kind of flag, over exact values. -/

namespace Sys2Proof.Machine

/-- A flag as VF holds it: 1 or 0. -/
def flagByte (b : Bool) : Byte := if b then 1 else 0

/-- Carry of an addition: the exact sum exceeds 0xFF (41_alu.md R78). -/
def carryFlag (sum : Nat) : Byte := flagByte (decide (0xFF < sum))

/-- No borrow in p - q: p ≥ q (R82, R83). -/
def noBorrowFlag (p q : Nat) : Byte := flagByte (decide (q ≤ p))

/-- The bit a right shift shifts out: bit 0 (R88). -/
def shiftOutRight (b : Nat) : Byte := flagByte (decide (b &&& 1 = 1))

/-- The bit a left shift shifts out of a byte: bit 7 (R89). -/
def shiftOutLeft (b : Nat) : Byte := flagByte (decide ((b >>> 7) &&& 1 = 1))

end Sys2Proof.Machine
end

