-- ==== Sys2Proof/Config.lean ====
section
/-! DEFINITION. What is fixed for a run (00_scope.md R8, R9) and the step inputs no rule constrains (R10).
The default values stand in Machine/Defaults.lean. -/

namespace Sys2Proof

/-- `MISS_POLICY`: what follows a decode-miss or a Sys (R9, decision D9). -/
inductive MissPolicy where
  | skip
  | halt
deriving DecidableEq, Repr

/-- `GUEST_ERROR_POLICY`: what follows a guest error (R9, decision D10). `proceed` is the spec's `continue`. -/
inductive GuestErrorPolicy where
  | proceed
  | halt
deriving DecidableEq, Repr

/-- The configuration parameters of R8 and R9. A model takes each as an argument, fixed for a run. -/
structure Config where
  /-- `MEM_SIZE`, in bytes (R8). -/
  memSize : Nat
  /-- `FONT_BASE` (R8). -/
  fontBase : Nat
  /-- `STACK_DEPTH`; `none` is `UNBOUNDED` (R8). -/
  stackDepth : Option Nat
  /-- `DEBUG`, which no rule reads (R8, R134; log 17). -/
  debug : Bool
  /-- `LOADSTORE_INCREMENTS_I` (R9). -/
  loadStoreIncrementsI : Bool
  /-- `FONT_GLYPH_STRIDE` (R9). -/
  fontGlyphStride : Nat
  /-- `FONT_TABLE` (R9). -/
  fontTable : List Byte
  /-- `LOAD_OFFSET` / `ENTRY_PC`, one address in R9's table (log 12). -/
  loadOffset : Word
  /-- `MISS_POLICY` (R9). -/
  missPolicy : MissPolicy
  /-- `GUEST_ERROR_POLICY` (R9). -/
  guestErrorPolicy : GuestErrorPolicy
deriving DecidableEq, Repr

/-- The inputs the host supplies for one step (40_cycle_and_operands.md R68). -/
structure StepInput where
  /-- `tick`: a 1/60-second boundary has elapsed. -/
  tick : Bool
  /-- `KEYS`: the key snapshot. -/
  keys : KeySet
  /-- `rnd`: the pseudo-random draw. -/
  rnd : BitVec 32
deriving DecidableEq, Repr

/-- The `tick` of the n-th step when the state does not fix it: a free value (R10; log 3). -/
opaque Config.freeTick : Nat → Bool

/-- The `KEYS` of the n-th step when the state does not fix it: a free value (R10; log 3). -/
opaque Config.freeKeys : Nat → KeySet

/-- The `rnd` of the n-th step when the state does not fix it: a free value (R10; log 3). -/
opaque Config.freeRnd : Nat → BitVec 32

end Sys2Proof
end

