-- ==== Sys2Proof/Machine/Defaults.lean ====
section
/-! DEFINITION. The default configuration, the legal configurations, and what memory holds at creation. -/

namespace Sys2Proof

/-- The default `FONT_TABLE`: 16 glyphs of 5 bytes (93_implementation_defined.md G3; log 7). -/
def defaultFontTable : List Byte :=
  [0xF0, 0x90, 0x90, 0x90, 0xF0,  0x20, 0x60, 0x20, 0x20, 0x70] ++
  [0xF0, 0x10, 0xF0, 0x80, 0xF0,  0xF0, 0x10, 0xF0, 0x10, 0xF0] ++
  [0x90, 0x90, 0xF0, 0x10, 0x10,  0xF0, 0x80, 0xF0, 0x10, 0xF0] ++
  [0xF0, 0x80, 0xF0, 0x90, 0xF0,  0xF0, 0x10, 0x20, 0x40, 0x40] ++
  [0xF0, 0x90, 0xF0, 0x90, 0xF0,  0xF0, 0x90, 0xF0, 0x10, 0xF0] ++
  [0xF0, 0x90, 0xF0, 0x90, 0x90,  0xE0, 0x90, 0xE0, 0x90, 0xE0] ++
  [0xF0, 0x80, 0x80, 0x80, 0xF0,  0xE0, 0x90, 0x90, 0x90, 0xE0] ++
  [0xF0, 0x80, 0xF0, 0x80, 0xF0,  0xF0, 0x80, 0xF0, 0x80, 0x80]

/-- The defaults of 00_scope.md R8 and R9. -/
def Config.default : Config where
  memSize := 0x2000
  fontBase := 0
  stackDepth := some 16
  debug := false
  loadStoreIncrementsI := false
  fontGlyphStride := 5
  fontTable := defaultFontTable
  loadOffset := 0x200
  missPolicy := .skip
  guestErrorPolicy := .halt

/-- The legal values of R8 and R9, with the font table and `ENTRY_PC` + 1 inside memory (decision D32). -/
def Config.legal (c : Config) : Bool :=
  decide (0x200 < c.memSize) && decide (c.memSize ≤ 0x10000) &&
  decide (c.fontBase + c.fontTable.length ≤ c.memSize) &&
  (match c.stackDepth with
   | none => true
   | some d => decide (1 ≤ d)) &&
  decide (1 ≤ c.fontGlyphStride) &&
  decide (c.loadOffset.toNat + 1 < c.memSize)

/-- What memory holds at creation: the font table at `FONT_BASE`, 0x00 elsewhere (10_state.md R31). It is
what an address that the memory list does not name reads as (log 10). -/
def Config.creationByte (c : Config) (a : Nat) : Byte :=
  if c.fontBase ≤ a then c.fontTable.getD (a - c.fontBase) 0 else 0

end Sys2Proof
end

