-- ==== Sys2Proof/Machine/State.lean ====
section
/-! DEFINITION. The state of the block (10_state.md), the outcome record of a step (60_exceptions.md R121,
R122), and the state at creation (10_state.md R31, 70_reset_and_hazards.md R136). -/

namespace Sys2Proof.Machine

/-- Memory: the bytes that differ from what memory holds at creation, by strictly rising address (log 10). -/
abbrev Memory := List Host.Cell

/-- The framebuffer: 32 rows of 64 pixels, `FB[y][x]` (10_state.md R27); `true` is the pixel value 1
(log 14). -/
abbrev FrameBuffer := Vector (Vector Bool 64) 32

/-- The cause codes of 60_exceptions.md R122, in the order of their codes 0 to 8. -/
inductive Cause where
  | noCause
  | decodeMiss
  | sysUnsupported
  | stackUnderflow
  | stackOverflow
  | memBounds
  | fetchBounds
  | keyIndexRange
  | tableWiring
deriving DecidableEq, Repr

/-- The kinds of outcome of 60_exceptions.md R121. -/
inductive OutcomeKind where
  | ok
  | waiting
  | halted
  | decodeMiss
  | sys
  | guestError
  | tableWiring
deriving DecidableEq, Repr

/-- The outcome record of a step (R121). A part is absent where the kind names none (log 5). -/
structure Report where
  kind : OutcomeKind
  cause : Cause
  addr : Option Word
  word : Option Word
  info : Option Nat
deriving DecidableEq, Repr

/-- The instruction in execution: its address `a` and its word (00_scope.md R14). -/
structure Fetched where
  addr : Word
  word : Word
deriving DecidableEq, Repr

/-- Why the machine faults. There is no constructor: 60_exceptions.md R123 gives every outcome of a step,
every error included, a next state, so nothing raises a fault (log 6). -/
inductive Fault where
deriving DecidableEq, Repr

/-- Why the machine refuses. -/
inductive Refusal where
  /-- Raised by an arm of `exec` that has no meaning yet; none is left. Safe: no claim is made of it. -/
  | notModelled (mnemonic : String)
  /-- Raised by `step` under a configuration outside the legal values (93_implementation_defined.md U13).
  Safe: the model stops where the spec gives no machine (log 2). -/
  | illegalConfig
deriving DecidableEq, Repr

/-- The state. The comment of each field names the rule of spec/ that gives it. -/
structure State where
  /-- The configuration, fixed for a run (00_scope.md R8, R9; log 1). -/
  cfg : Config
  /-- `V0`..`VF` (10_state.md R15). -/
  v : Vector Byte 16
  /-- The index register `I` (R23). -/
  i : Word
  /-- The program counter (R19). -/
  pc : Word
  /-- The delay timer (R24). -/
  dt : Byte
  /-- The sound timer (R24). -/
  st : Byte
  /-- The call stack `S`, oldest first (R25). -/
  stack : List Word
  /-- Memory `M` (R26). -/
  mem : Memory
  /-- The framebuffer `FB` (R27). -/
  fb : FrameBuffer
  /-- `wk_active` (R29). -/
  wkActive : Bool
  /-- `wk_prev` (R29). -/
  wkPrev : KeySet
  /-- `halted` (R22). -/
  halted : Bool
  /-- `halt_cause` (R22; log 8). -/
  haltCause : Cause
  /-- `tick`, `KEYS` and `rnd` of the step in progress (R28, 40_cycle_and_operands.md R68). -/
  input : StepInput
  /-- The model's own: inputs the host has fixed for coming steps (log 3). -/
  pending : List StepInput
  /-- The model's own: the counter of the free inputs (log 3). -/
  stepNo : Nat
  /-- The model's own: the instruction in execution (log 4). -/
  fetched : Option Fetched
  /-- The model's own: the block's output, the outcome of the last step (R121; log 4). -/
  report : Option Report
deriving DecidableEq, Repr

/-- The state at creation under a configuration (10_state.md R31, 70_reset_and_hazards.md R136). -/
def State.create (c : Config) : State where
  cfg := c
  v := Vector.replicate 16 0
  i := 0
  pc := c.loadOffset
  dt := 0
  st := 0
  stack := []
  mem := []
  fb := Vector.replicate 32 (Vector.replicate 64 false)
  wkActive := false
  wkPrev := 0
  halted := false
  haltCause := .noCause
  input := { tick := false, keys := 0, rnd := 0 }
  pending := []
  stepNo := 0
  fetched := none
  report := none

/-- The state right after reset: creation under the default configuration. -/
def State.reset : State := State.create Config.default

end Sys2Proof.Machine
end

