-- ==== Sys2Proof/Machine/Ops.lean ====
section
/-! DEFINITION. The named operations over the state: registers, memory, framebuffer, stack, program counter,
timers, inputs, the report, and the commit of an outcome (60_exceptions.md R123), which is this block's
counterpart of taking an exception: R125, R126 give it no trap entry and no return from one. -/

namespace Sys2Proof.Machine

/-! ## Cause codes -/

/-- The code of a cause (60_exceptions.md R122), the value `halt_cause` has as 4 bits (10_state.md R22). -/
def Cause.code : Cause → BitVec 4
  | .noCause => 0
  | .decodeMiss => 1
  | .sysUnsupported => 2
  | .stackUnderflow => 3
  | .stackOverflow => 4
  | .memBounds => 5
  | .fetchBounds => 6
  | .keyIndexRange => 7
  | .tableWiring => 8

/-! ## Registers -/

/-- `V[r]` (00_scope.md R13). -/
def State.getV (s : State) (r : RegIx) : Byte := s.v[r]

/-- `V[r] <- b` (R13). -/
def State.setV (s : State) (r : RegIx) (b : Byte) : State := { s with v := s.v.set r b }

/-- `I <- v & 0xFFFF` (R13). -/
def State.setI (s : State) (v : Nat) : State := { s with i := BitVec.ofNat 16 v }

/-- `pc <- t & 0xFFFF` (R13). -/
def State.setPc (s : State) (t : Nat) : State := { s with pc := BitVec.ofNat 16 t }

/-- `DT <- v & 0xFF` (R13). -/
def State.setDt (s : State) (v : Nat) : State := { s with dt := BitVec.ofNat 8 v }

/-- `ST <- v & 0xFF` (R13). -/
def State.setSt (s : State) (v : Nat) : State := { s with st := BitVec.ofNat 8 v }

/-! ## Memory -/

/-- The byte at an address; `init` gives what an address that is not listed reads as (log 10). -/
def Memory.read (init : Nat → Byte) : Memory → Nat → Byte
  | [], a => init a
  | (k, b) :: m, a => if a = k then b else Memory.read init m a

/-- The memory without an entry for an address. -/
def Memory.erase : Memory → Nat → Memory
  | [], _ => []
  | (k, b) :: m, a => if a = k then Memory.erase m a else (k, b) :: Memory.erase m a

/-- An entry put at its place among rising addresses. -/
def Memory.insert : Memory → Nat → Byte → Memory
  | [], a, b => [(a, b)]
  | (k, c) :: m, a, b => if a < k then (a, b) :: (k, c) :: m else (k, c) :: Memory.insert m a b

/-- A byte stored at an address, in the canonical form: no entry equals what `init` gives. -/
def Memory.write (init : Nat → Byte) (m : Memory) (a : Nat) (b : Byte) : Memory :=
  if b = init a then Memory.erase m a else Memory.insert (Memory.erase m a) a b

/-- The canonical form from address `lo` on: addresses rise strictly and stay below `size`, and no entry
equals what an unlisted address reads as. -/
def Memory.wfFrom (init : Nat → Byte) (size lo : Nat) : Memory → Bool
  | [] => true
  | (k, b) :: m => decide (lo ≤ k) && decide (k < size) && (b != init k) && Memory.wfFrom init size (k + 1) m

/-- The canonical form of a memory of `size` bytes. -/
def Memory.wf (init : Nat → Byte) (size : Nat) (m : Memory) : Bool := Memory.wfFrom init size 0 m

/-- The canonical form of a state's memory. -/
def State.memWf (s : State) : Bool := Memory.wf s.cfg.creationByte s.cfg.memSize s.mem

/-- `MemRead(a, 1)` (00_scope.md R13); the caller has checked a < `MEM_SIZE`. -/
def State.readMem (s : State) (a : Nat) : Byte := Memory.read s.cfg.creationByte s.mem a

/-- `MemWrite(a, 1, b)` (R13); the caller has checked a < `MEM_SIZE`. -/
def State.writeMem (s : State) (a : Nat) (b : Byte) : State :=
  { s with mem := Memory.write s.cfg.creationByte s.mem a b }

/-- The bytes stored at a, a+1, ... in this order. -/
def State.storeBytes (s : State) (a : Nat) : List Byte → State
  | [] => s
  | b :: bs => State.storeBytes (s.writeMem a b) (a + 1) bs

/-- The lowest out-of-range address of the n bytes from I on, if there is one (20_memory.md R36). Addresses
do not wrap (R35). -/
def State.firstOutOfRange (s : State) (n : Nat) : Option Nat :=
  if n = 0 then none
  else if s.cfg.memSize ≤ s.i.toNat + n - 1 then some (max s.i.toNat s.cfg.memSize)
  else none

/-! ## Framebuffer -/

/-- The row index of a value: mod 32 (44_display_input.md R116). -/
def wrapRow (y : Nat) : Fin 32 := Fin.ofNat 32 y

/-- The column index of a value: mod 64 (R116). -/
def wrapCol (x : Nat) : Fin 64 := Fin.ofNat 64 x

/-- `FB[y][x]` (10_state.md R27). -/
def FrameBuffer.pixel (fb : FrameBuffer) (y : Fin 32) (x : Fin 64) : Bool := fb[y][x]

/-- `FB[y][x] <- FB[y][x] ^ 1` (R116). -/
def FrameBuffer.flip (fb : FrameBuffer) (y : Fin 32) (x : Fin 64) : FrameBuffer :=
  fb.set y (fb[y].set x (!fb[y][x]))

/-- The framebuffer with every pixel 0 (R115). -/
def FrameBuffer.clear : FrameBuffer := Vector.replicate 32 (Vector.replicate 64 false)

/-- The host's linear view: the byte at index y·64 + x, 0 or 1 (10_state.md R27, decision D27). -/
def State.fbByte (s : State) (k : Nat) : Byte := flagByte (FrameBuffer.pixel s.fb (wrapRow (k / 64)) (wrapCol k))

/-! ## Call stack -/

/-- No room for another return address: depth(S) is not below `STACK_DEPTH` (R25, 43_control.md R107; log 13). -/
def State.stackFull (s : State) : Bool :=
  match s.cfg.stackDepth with
  | none => false
  | some d => decide (d ≤ s.stack.length)

/-- `push(a)` (R25). -/
def State.push (s : State) (a : Word) : State := { s with stack := s.stack ++ [a] }

/-! ## Control flow -/

/-- A skip: one extra instruction width when the condition holds (43_control.md R104). -/
def State.skipIf (s : State) (cond : Bool) : State := if cond then { s with pc := s.pc + 2 } else s

/-! ## The start of a step: inputs, tick, fetch, advance (40_cycle_and_operands.md R69) -/

/-- The inputs of the coming step: those the host has fixed, else free values (R68, 00_scope.md R10; log 3). -/
def State.nextInput (s : State) : StepInput :=
  match s.pending with
  | [] => { tick := Config.freeTick s.stepNo, keys := Config.freeKeys s.stepNo, rnd := Config.freeRnd s.stepNo }
  | x :: _ => x

/-- The step's inputs taken; no instruction is fetched yet. -/
def State.latchInput (s : State) : State :=
  { s with input := s.nextInput, pending := s.pending.tail, stepNo := s.stepNo + 1, fetched := none }

/-- One timer under the tick (60_exceptions.md R130): it counts down and stops at 0. -/
def tickDown (tick : Bool) (t : Byte) : Byte := if t = 0 then 0 else if tick then t - 1 else t

/-- Phase 1: the timer tick (R69, R130). -/
def State.applyTick (s : State) : State :=
  { s with dt := tickDown s.input.tick s.dt, st := tickDown s.input.tick s.st }

/-- Phase 2: the word at pc, none when pc + 1 is not below `MEM_SIZE` (R70, 20_memory.md R33, R37). -/
def State.fetchWord (s : State) : Option Word :=
  if s.cfg.memSize ≤ s.pc.toNat + 1 then none
  else some (wordOfBytes (s.readMem s.pc.toNat) (s.readMem (s.pc.toNat + 1)))

/-- Phase 3: the advance (R71), with the instruction in execution latched for the report. -/
def State.advance (s : State) (w : Word) : State :=
  { s with pc := s.pc + 2, fetched := some { addr := s.pc, word := w } }

/-! ## Outcomes and their commit (60_exceptions.md R121-R123) -/

/-- What ends an execute phase early (00_scope.md R13). -/
inductive Raise where
  /-- `GuestError(cause, info)`. -/
  | guestError (cause : Cause) (info : Nat)
  /-- `Sys(nnn)`. -/
  | sys (nnn : Nat)
  /-- `DecodeMiss(word)`. -/
  | decodeMiss (w : Word)
  /-- `TableWiring()`. -/
  | tableWiring
deriving DecidableEq, Repr

/-- What an execute phase does: it completes, it waits (R120), or it raises. -/
inductive Effect where
  | ok (s : State)
  | waiting (s : State)
  | raise (r : Raise)
deriving DecidableEq, Repr

/-- The outcome record for the instruction in execution (R121). -/
def State.reportOf (s : State) (k : OutcomeKind) (c : Cause) (info : Option Nat) : Report :=
  { kind := k, cause := c, addr := s.fetched.map Fetched.addr, word := s.fetched.map Fetched.word, info := info }

/-- The outcome record put out. -/
def State.withReport (s : State) (k : OutcomeKind) (c : Cause) (info : Option Nat) : State :=
  { s with report := some (s.reportOf k c info) }

/-- `halted <- 1`, `halt_cause <- cause` (R123). -/
def State.halt (s : State) (c : Cause) : State := { s with halted := true, haltCause := c }

/-- What `MISS_POLICY` makes of a decode-miss or a Sys (R123). -/
def State.applyMissPolicy (s : State) (c : Cause) : State :=
  match s.cfg.missPolicy with
  | .skip => s
  | .halt => s.halt c

/-- What `GUEST_ERROR_POLICY` makes of a guest error (R123). -/
def State.applyGuestPolicy (s : State) (c : Cause) : State :=
  match s.cfg.guestErrorPolicy with
  | .proceed => s
  | .halt => s.halt c

/-- The commit of a raised outcome over the advanced state s (R123). Nothing but the report, `halted` and
`halt_cause` changes: errors are precise (R124). -/
def State.commitRaise (s : State) : Raise → State
  | .decodeMiss w => (s.applyMissPolicy .decodeMiss).withReport .decodeMiss .decodeMiss (some w.toNat)
  | .sys nnn => (s.applyMissPolicy .sysUnsupported).withReport .sys .sysUnsupported (some nnn)
  | .guestError c info => (s.applyGuestPolicy c).withReport .guestError c (some info)
  | .tableWiring => (s.halt .tableWiring).withReport .tableWiring .tableWiring none

/-- The commit of an execute phase that began in the advanced state s (R123). -/
def commit (s : State) : Effect → Host.Outcome State Fault Refusal
  | .ok t => .next (t.withReport .ok .noCause none)
  | .waiting t => .next (t.withReport .waiting .noCause none)
  | .raise r => .next (s.commitRaise r)

/-- The commit of FETCH_BOUNDS: pc not advanced, always halts (R123, 20_memory.md R37). -/
def State.commitFetchBounds (s : State) : State :=
  { s.halt .fetchBounds with
    report := some { kind := .guestError, cause := .fetchBounds, addr := some s.pc, word := none,
                     info := some s.pc.toNat } }

/-- The outcome `Halted` with the stored cause; the block does not change (R69 phase 0, R121). -/
def State.commitHalted (s : State) : State :=
  { s with report := some { kind := .halted, cause := s.haltCause, addr := none, word := none, info := none } }

/-! ## Before the first step (70_reset_and_hazards.md R137) -/

/-- The program image copied to `LOAD_OFFSET`, in a state of creation; none when it does not fit, which is
the loader's error. -/
def State.loadImage (s : State) (image : List Byte) : Option State :=
  if s.cfg.loadOffset.toNat + image.length ≤ s.cfg.memSize
  then some (s.storeBytes s.cfg.loadOffset.toNat image)
  else none

end Sys2Proof.Machine
end

