-- ==== Sys2Proof/Machine/Operands.lean ====
section
/-! DEFINITION. Operand resolution (40_cycle_and_operands.md R72, R73) and the operand kinds each operation
accepts (R76). -/

namespace Sys2Proof.Machine

/-- `load(op)`: the current value of a readable operand, exact (R72). -/
def load (s : State) : Operand → Except Raise Nat
  | .register r => .ok (s.getV r).toNat
  | .indexRegister => .ok s.i.toNat
  | .indirectViaIndex =>
    if s.cfg.memSize ≤ s.i.toNat then .error (.guestError .memBounds s.i.toNat)
    else .ok (s.readMem s.i.toNat).toNat
  | .immediate12 v => .ok v.toNat
  | .immediate8 v => .ok v.toNat
  | .immediate4 v => .ok v.toNat
  | .delayTimer => .ok s.dt.toNat
  | .soundTimer => .ok s.st.toNat
  | .unused => .error .tableWiring

/-- `store(op, v)`: the value truncated to the destination's width (R73). -/
def store (s : State) (op : Operand) (v : Nat) : Except Raise State :=
  match op with
  | .register r => .ok (s.setV r (BitVec.ofNat 8 v))
  | .indexRegister => .ok (s.setI v)
  | .indirectViaIndex =>
    if s.cfg.memSize ≤ s.i.toNat then .error (.guestError .memBounds s.i.toNat)
    else .ok (s.writeMem s.i.toNat (BitVec.ofNat 8 v))
  | .immediate12 _ => .error .tableWiring
  | .immediate8 _ => .error .tableWiring
  | .immediate4 _ => .error .tableWiring
  | .delayTimer => .ok (s.setDt v)
  | .soundTimer => .ok (s.setSt v)
  | .unused => .error .tableWiring

/-- An execute phase that goes on with a loaded value. -/
def withLoad (s : State) (op : Operand) (k : Nat → Effect) : Effect :=
  match load s op with
  | .ok v => k v
  | .error r => .raise r

/-- An execute phase that goes on after a store. -/
def withStore (s : State) (op : Operand) (v : Nat) (k : State → Effect) : Effect :=
  match store s op v with
  | .ok t => k t
  | .error r => .raise r

/-- An execute phase that accesses the n bytes from I on: the range is checked before any change
(20_memory.md R36). -/
def withRange (s : State) (n : Nat) (k : Effect) : Effect :=
  match s.firstOutOfRange n with
  | some a => .raise (.guestError .memBounds a)
  | none => k

/-- Kinds `load` resolves (R72). -/
def OperandKind.loadable : OperandKind → Bool
  | .unused => false
  | _ => true

/-- Kinds `store` resolves (R73). -/
def OperandKind.storable : OperandKind → Bool
  | .register => true
  | .indexRegister => true
  | .indirectViaIndex => true
  | .delayTimer => true
  | .soundTimer => true
  | _ => false

/-- The operand kinds each operation accepts: the table of R76 (log 9). -/
def acceptsKinds (op : Operation) (d s a : OperandKind) : Bool :=
  match op with
  | .add => (d == .register || d == .indexRegister) && (s == .register || s == .immediate8)
  | .sub => d == .register && s == .register
  | .subN => d == .register && s == .register
  | .or => d == .register && s == .register
  | .and => d == .register && s == .register
  | .xor => d == .register && s == .register
  | .shiftRight => d == .register && s == .register
  | .shiftLeft => d == .register && s == .register
  | .load => OperandKind.storable d && OperandKind.loadable s
  | .font => OperandKind.storable d && OperandKind.loadable s
  | .bcd => OperandKind.loadable s
  | .rand => OperandKind.storable d && OperandKind.loadable s
  | .skipEq => OperandKind.loadable d && OperandKind.loadable s
  | .skipNeq => OperandKind.loadable d && OperandKind.loadable s
  | .skipKey => d == .register
  | .skipNKey => d == .register
  | .waitKey => d == .register
  | .jump => OperandKind.loadable d
  | .jumpV0 => OperandKind.loadable d
  | .call => OperandKind.loadable d
  | .sys => OperandKind.loadable d
  | .ret => true
  | .cls => true
  | .sprite => OperandKind.loadable d && OperandKind.loadable s && a == .immediate4
  | .stash => s == .register
  | .fetch => s == .register

/-- An execute phase behind the wiring check, which comes first (R76, 60_exceptions.md R128). -/
def wired (op : Operation) (dest src aux : Operand) (k : Effect) : Effect :=
  if acceptsKinds op dest.kind src.kind aux.kind then k else .raise .tableWiring

/-- The index of a register operand (10_state.md R16); the wiring check has excluded the other kinds. -/
def withRegIndex (op : Operand) (k : RegIx → Effect) : Effect :=
  match op with
  | .register r => k r
  | _ => .raise .tableWiring

end Sys2Proof.Machine
end

