-- ==== Sys2Proof/Machine/Alu.lean ====
section
/-! DEFINITION. The register ALU (41_alu.md): the operations over operands, then one meaning per instruction.
Values are exact naturals; a store truncates (00_scope.md R12, 41_alu.md R77). -/

namespace Sys2Proof.Machine

/-! ## Operations -/

/-- Both operands are general registers: the case in which Add writes VF (R78). -/
def bothRegisters (dest src : Operand) : Bool := dest.kind == .register && src.kind == .register

/-- Add (R78). -/
def opAdd (dest src aux : Operand) (s : State) : Effect :=
  wired .add dest src aux <|
  withLoad s dest fun p =>
  withLoad s src fun q =>
  withStore s dest (p + q) fun t =>
  .ok (if bothRegisters dest src then t.setV 15 (carryFlag (p + q)) else t)

/-- Sub (R82): dest − src, VF the no-borrow flag. -/
def opSub (dest src aux : Operand) (s : State) : Effect :=
  wired .sub dest src aux <|
  withLoad s dest fun p =>
  withLoad s src fun q =>
  withStore s dest (p + 0x100 - q) fun t =>
  .ok (t.setV 15 (noBorrowFlag p q))

/-- SubN (R83): src − dest, VF the no-borrow flag. -/
def opSubN (dest src aux : Operand) (s : State) : Effect :=
  wired .subN dest src aux <|
  withLoad s dest fun p =>
  withLoad s src fun q =>
  withStore s dest (q + 0x100 - p) fun t =>
  .ok (t.setV 15 (noBorrowFlag q p))

/-- The body the three bitwise operations share: dest := f dest src, VF unaffected (R84-R86). -/
def bitwise (f : Nat → Nat → Nat) (dest src : Operand) (s : State) : Effect :=
  withLoad s dest fun p =>
  withLoad s src fun q =>
  withStore s dest (f p q) fun t =>
  .ok t

/-- Or (R84). -/
def opOr (dest src aux : Operand) (s : State) : Effect :=
  wired .or dest src aux (bitwise (fun p q => p ||| q) dest src s)

/-- And (R85). -/
def opAnd (dest src aux : Operand) (s : State) : Effect :=
  wired .and dest src aux (bitwise (fun p q => p &&& q) dest src s)

/-- Xor (R86). -/
def opXor (dest src aux : Operand) (s : State) : Effect :=
  wired .xor dest src aux (bitwise (fun p q => p ^^^ q) dest src s)

/-- ShiftRight (R88): dest := src >> 1 (R87), VF the bit shifted out. -/
def opShiftRight (dest src aux : Operand) (s : State) : Effect :=
  wired .shiftRight dest src aux <|
  withLoad s src fun b =>
  withStore s dest (b >>> 1) fun t =>
  .ok (t.setV 15 (shiftOutRight b))

/-- ShiftLeft (R89): dest := src << 1 (R87), VF the bit shifted out. -/
def opShiftLeft (dest src aux : Operand) (s : State) : Effect :=
  wired .shiftLeft dest src aux <|
  withLoad s src fun b =>
  withStore s dest (b <<< 1) fun t =>
  .ok (t.setV 15 (shiftOutLeft b))

/-- Rand (R90): dest := rnd & src, with the step's free draw (00_scope.md R10). -/
def opRand (dest src aux : Operand) (s : State) : Effect :=
  wired .rand dest src aux <|
  withLoad s src fun mask =>
  withStore s dest (s.input.rnd.toNat &&& mask) fun t =>
  .ok t

/-! ## Meanings -/

/-- 7XKK `ADD Vx, kk` (R79). -/
def execAddVxKk (x : RegIx) (kk : Byte) (s : State) : Host.Outcome State Fault Refusal :=
  commit s (opAdd (.register x) (.immediate8 kk) .unused s)

/-- 8XY4 `ADD Vx, Vy` (R80). -/
def execAddVxVy (x y : RegIx) (s : State) : Host.Outcome State Fault Refusal :=
  commit s (opAdd (.register x) (.register y) .unused s)

/-- FX1E `ADD I, Vx` (R81). -/
def execAddIVx (x : RegIx) (s : State) : Host.Outcome State Fault Refusal :=
  commit s (opAdd .indexRegister (.register x) .unused s)

/-- 8XY5 `SUB Vx, Vy` (R82). -/
def execSubVxVy (x y : RegIx) (s : State) : Host.Outcome State Fault Refusal :=
  commit s (opSub (.register x) (.register y) .unused s)

/-- 8XY7 `SUBN Vx, Vy` (R83). -/
def execSubnVxVy (x y : RegIx) (s : State) : Host.Outcome State Fault Refusal :=
  commit s (opSubN (.register x) (.register y) .unused s)

/-- 8XY1 `OR Vx, Vy` (R84). -/
def execOrVxVy (x y : RegIx) (s : State) : Host.Outcome State Fault Refusal :=
  commit s (opOr (.register x) (.register y) .unused s)

/-- 8XY2 `AND Vx, Vy` (R85). -/
def execAndVxVy (x y : RegIx) (s : State) : Host.Outcome State Fault Refusal :=
  commit s (opAnd (.register x) (.register y) .unused s)

/-- 8XY3 `XOR Vx, Vy` (R86). -/
def execXorVxVy (x y : RegIx) (s : State) : Host.Outcome State Fault Refusal :=
  commit s (opXor (.register x) (.register y) .unused s)

/-- 8XY6 `SHR Vx, Vy` (R88). -/
def execShrVxVy (x y : RegIx) (s : State) : Host.Outcome State Fault Refusal :=
  commit s (opShiftRight (.register x) (.register y) .unused s)

/-- 8XYE `SHL Vx, Vy` (R89). -/
def execShlVxVy (x y : RegIx) (s : State) : Host.Outcome State Fault Refusal :=
  commit s (opShiftLeft (.register x) (.register y) .unused s)

/-- CXKK `RND Vx, kk` (R90). -/
def execRnd (x : RegIx) (kk : Byte) (s : State) : Host.Outcome State Fault Refusal :=
  commit s (opRand (.register x) (.immediate8 kk) .unused s)

end Sys2Proof.Machine
end

