-- ==== Sys2Proof/Machine/Control.lean ====
section
/-! DEFINITION. Control transfer, skips and SYS (43_control.md): the operations over operands, then one
meaning per instruction. In an execute phase pc is already a + 2 (40_cycle_and_operands.md R71). -/

namespace Sys2Proof.Machine

/-! ## Operations -/

/-- Jump (R105). -/
def opJump (dest src aux : Operand) (s : State) : Effect :=
  wired .jump dest src aux <|
  withLoad s dest fun t =>
  .ok (s.setPc t)

/-- JumpV0 (R106): the target plus V0. -/
def opJumpV0 (dest src aux : Operand) (s : State) : Effect :=
  wired .jumpV0 dest src aux <|
  withLoad s dest fun t =>
  .ok (s.setPc (t + (s.getV 0).toNat))

/-- Call (R107): the return address a + 2 is pushed. -/
def opCall (dest src aux : Operand) (s : State) : Effect :=
  wired .call dest src aux <|
  if s.stackFull then .raise (.guestError .stackOverflow s.stack.length)
  else
    withLoad s dest fun t =>
    .ok ((s.push s.pc).setPc t)

/-- Ret (R108). -/
def opRet (dest src aux : Operand) (s : State) : Effect :=
  wired .ret dest src aux <|
  match s.stack.getLast? with
  | none => .raise (.guestError .stackUnderflow 0)
  | some a => .ok { s with stack := s.stack.dropLast, pc := a }

/-- The body the two compare-and-skip operations share (R104). -/
def compareSkip (cond : Nat → Nat → Bool) (dest src : Operand) (s : State) : Effect :=
  withLoad s dest fun p =>
  withLoad s src fun q =>
  .ok (s.skipIf (cond p q))

/-- SkipEq (R109, R111). -/
def opSkipEq (dest src aux : Operand) (s : State) : Effect :=
  wired .skipEq dest src aux (compareSkip (fun p q => p == q) dest src s)

/-- SkipNeq (R110, R112). -/
def opSkipNeq (dest src aux : Operand) (s : State) : Effect :=
  wired .skipNeq dest src aux (compareSkip (fun p q => p != q) dest src s)

/-- Sys (R113): the block cannot run host machine code; the outcome is reported. -/
def opSys (dest src aux : Operand) (s : State) : Effect :=
  wired .sys dest src aux <|
  withLoad s dest fun nnn =>
  .raise (.sys nnn)

/-! ## Meanings -/

/-- 1NNN `JP nnn` (R105). -/
def execJp (nnn : BitVec 12) (s : State) : Host.Outcome State Fault Refusal :=
  commit s (opJump (.immediate12 nnn) .unused .unused s)

/-- BNNN `JP V0, nnn` (R106). -/
def execJpV0 (nnn : BitVec 12) (s : State) : Host.Outcome State Fault Refusal :=
  commit s (opJumpV0 (.immediate12 nnn) .unused .unused s)

/-- 2NNN `CALL nnn` (R107). -/
def execCall (nnn : BitVec 12) (s : State) : Host.Outcome State Fault Refusal :=
  commit s (opCall (.immediate12 nnn) .unused .unused s)

/-- 00EE `RET` (R108). -/
def execRet (s : State) : Host.Outcome State Fault Refusal :=
  commit s (opRet .unused .unused .unused s)

/-- 3XKK `SE Vx, kk` (R109). -/
def execSeVxKk (x : RegIx) (kk : Byte) (s : State) : Host.Outcome State Fault Refusal :=
  commit s (opSkipEq (.register x) (.immediate8 kk) .unused s)

/-- 4XKK `SNE Vx, kk` (R110). -/
def execSneVxKk (x : RegIx) (kk : Byte) (s : State) : Host.Outcome State Fault Refusal :=
  commit s (opSkipNeq (.register x) (.immediate8 kk) .unused s)

/-- 5XY0 `SE Vx, Vy` (R111). -/
def execSeVxVy (x y : RegIx) (s : State) : Host.Outcome State Fault Refusal :=
  commit s (opSkipEq (.register x) (.register y) .unused s)

/-- 9XY0 `SNE Vx, Vy` (R112). -/
def execSneVxVy (x y : RegIx) (s : State) : Host.Outcome State Fault Refusal :=
  commit s (opSkipNeq (.register x) (.register y) .unused s)

/-- 0NNN `SYS nnn` (R113). -/
def execSys (nnn : BitVec 12) (s : State) : Host.Outcome State Fault Refusal :=
  commit s (opSys (.immediate12 nnn) .unused .unused s)

end Sys2Proof.Machine
end

