-- ==== Sys2Proof/Machine/Display.lean ====
section
/-! DEFINITION. Display and key input (44_display_input.md): the operations over operands, then one meaning
per instruction. -/

namespace Sys2Proof.Machine

/-! ## The XOR-blit (R116) -/

/-- The framebuffer so far, and whether a set sprite bit has met a set pixel. -/
structure Blit where
  fb : FrameBuffer
  hit : Bool
deriving DecidableEq, Repr

/-- Column c of sprite row r: bit 7 of the byte is the leftmost pixel (R116). -/
def blitPixel (cx cy r : Nat) (b : Byte) (acc : Blit) (c : Nat) : Blit :=
  if b.getLsbD (7 - c) then
    { fb := FrameBuffer.flip acc.fb (wrapRow (cy + r)) (wrapCol (cx + c))
      hit := acc.hit || FrameBuffer.pixel acc.fb (wrapRow (cy + r)) (wrapCol (cx + c)) }
  else acc

/-- One sprite row: columns 0 to 7 (R116). -/
def blitRow (cx cy r : Nat) (b : Byte) (acc : Blit) : Blit :=
  (List.range 8).foldl (blitPixel cx cy r b) acc

/-- All sprite rows: row r is the byte at I + r (R116). -/
def State.blit (s : State) (cx cy n : Nat) : Blit :=
  (List.range n).foldl (fun acc r => blitRow cx cy r (s.readMem (s.i.toNat + r)) acc)
    { fb := s.fb, hit := false }

/-! ## Operations -/

/-- Cls (R115). -/
def opCls (dest src aux : Operand) (s : State) : Effect :=
  wired .cls dest src aux <|
  .ok { s with fb := FrameBuffer.clear }

/-- Sprite (R116): coordinates are read before VF is cleared, and the range is checked before any change. -/
def opSprite (dest src aux : Operand) (s : State) : Effect :=
  wired .sprite dest src aux <|
  withLoad s dest fun cx =>
  withLoad s src fun cy =>
  withLoad s aux fun n =>
  withRange s n <|
  .ok ({ s.setV 15 0 with fb := ((s.setV 15 0).blit cx cy n).fb }.setV 15
        (flagByte ((s.setV 15 0).blit cx cy n).hit))

/-- The body the two key skips share: a key index above 15 raises (R117). -/
def keySkip (cond : Bool → Bool) (dest : Operand) (s : State) : Effect :=
  withLoad s dest fun k =>
  if 16 ≤ k then .raise (.guestError .keyIndexRange k)
  else .ok (s.skipIf (cond (s.input.keys.getLsbD k)))

/-- SkipKey (R118). -/
def opSkipKey (dest src aux : Operand) (s : State) : Effect :=
  wired .skipKey dest src aux (keySkip (fun down => down) dest s)

/-- SkipNKey (R119). -/
def opSkipNKey (dest src aux : Operand) (s : State) : Effect :=
  wired .skipNKey dest src aux (keySkip (fun down => !down) dest s)

/-- The lowest key that is down now and was not before, if there is one (R120). -/
def newPress (prev now : KeySet) : Option RegIx :=
  (List.finRange 16).find? (fun k => now.getLsbD k.val && !prev.getLsbD k.val)

/-- The retry of a WaitKey: the snapshot is kept and pc goes back to the word's own address (R120). -/
def State.retryWait (s : State) : State :=
  { s with wkActive := true, wkPrev := s.input.keys, pc := s.pc - 2 }

/-- WaitKey (R120). -/
def opWaitKey (dest src aux : Operand) (s : State) : Effect :=
  wired .waitKey dest src aux <|
  if s.wkActive then
    match newPress s.wkPrev s.input.keys with
    | none => .waiting s.retryWait
    | some k => withStore s dest k.val fun t => .ok { t with wkActive := false }
  else .waiting s.retryWait

/-! ## Meanings -/

/-- 00E0 `CLS` (R115). -/
def execCls (s : State) : Host.Outcome State Fault Refusal :=
  commit s (opCls .unused .unused .unused s)

/-- DXYN `DRW Vx, Vy, n` (R116). -/
def execDrw (x y : RegIx) (n : Nibble) (s : State) : Host.Outcome State Fault Refusal :=
  commit s (opSprite (.register x) (.register y) (.immediate4 n) s)

/-- EX9E `SKP Vx` (R118). -/
def execSkp (x : RegIx) (s : State) : Host.Outcome State Fault Refusal :=
  commit s (opSkipKey (.register x) .unused .unused s)

/-- EXA1 `SKNP Vx` (R119). -/
def execSknp (x : RegIx) (s : State) : Host.Outcome State Fault Refusal :=
  commit s (opSkipNKey (.register x) .unused .unused s)

/-- FX0A `LD Vx, K` (R120). -/
def execLdVxK (x : RegIx) (s : State) : Host.Outcome State Fault Refusal :=
  commit s (opWaitKey (.register x) .unused .unused s)

end Sys2Proof.Machine
end

