-- ==== Sys2Proof/Machine/LoadStore.lean ====
section
/-! DEFINITION. Loads, stores, Font, BCD, Stash and Fetch (42_load_store.md): the operations over operands,
then one meaning per instruction. -/

namespace Sys2Proof.Machine

/-! ## Operations -/

/-- Load (R91): store(dest, load(src)). -/
def opLoad (dest src aux : Operand) (s : State) : Effect :=
  wired .load dest src aux <|
  withLoad s src fun v =>
  withStore s dest v fun t =>
  .ok t

/-- Font (R98): the glyph address `FONT_BASE + FONT_GLYPH_STRIDE * d` (90_conflicts.md C4; log 16). -/
def opFont (dest src aux : Operand) (s : State) : Effect :=
  wired .font dest src aux <|
  withLoad s src fun d =>
  withStore s dest (s.cfg.fontBase + s.cfg.fontGlyphStride * d) fun t =>
  .ok t

/-- The three decimal digits of a value, hundreds first, as bytes (R99). -/
def bcdDigits (v : Nat) : List Byte :=
  [BitVec.ofNat 8 (v / 100), BitVec.ofNat 8 (v / 10 % 10), BitVec.ofNat 8 (v % 10)]

/-- BCD (R99): three digits stored at I, I+1, I+2; I is unchanged. -/
def opBcd (dest src aux : Operand) (s : State) : Effect :=
  wired .bcd dest src aux <|
  withLoad s src fun v =>
  withRange s 3 <|
  .ok (s.storeBytes s.i.toNat (bcdDigits v))

/-- I after Stash and Fetch: advanced by x + 1 under `LOADSTORE_INCREMENTS_I`, else unchanged (R100). -/
def State.bumpIndex (s : State) (x : RegIx) : State :=
  if s.cfg.loadStoreIncrementsI then s.setI (s.i.toNat + x.val + 1) else s

/-- The bytes V0..Vx (R101). -/
def State.regsUpTo (s : State) (x : RegIx) : List Byte := s.v.toList.take (x.val + 1)

/-- `V[i] <- MemRead(I + i, 1)` for i in 0..x (R102). -/
def State.loadRegs (s : State) (x : RegIx) : State :=
  (List.finRange 16).foldl
    (fun t r => if r ≤ x then t.setV r (s.readMem (s.i.toNat + r.val)) else t) s

/-- Stash (R101). -/
def opStash (dest src aux : Operand) (s : State) : Effect :=
  wired .stash dest src aux <|
  withRegIndex src fun x =>
  withRange s (x.val + 1) <|
  .ok ((s.storeBytes s.i.toNat (s.regsUpTo x)).bumpIndex x)

/-- Fetch (R102). -/
def opFetch (dest src aux : Operand) (s : State) : Effect :=
  wired .fetch dest src aux <|
  withRegIndex src fun x =>
  withRange s (x.val + 1) <|
  .ok ((s.loadRegs x).bumpIndex x)

/-! ## Meanings -/

/-- 6XKK `LD Vx, kk` (R92). -/
def execLdVxKk (x : RegIx) (kk : Byte) (s : State) : Host.Outcome State Fault Refusal :=
  commit s (opLoad (.register x) (.immediate8 kk) .unused s)

/-- 8XY0 `LD Vx, Vy` (R93). -/
def execLdVxVy (x y : RegIx) (s : State) : Host.Outcome State Fault Refusal :=
  commit s (opLoad (.register x) (.register y) .unused s)

/-- ANNN `LD I, nnn` (R94). -/
def execLdINnn (nnn : BitVec 12) (s : State) : Host.Outcome State Fault Refusal :=
  commit s (opLoad .indexRegister (.immediate12 nnn) .unused s)

/-- FX07 `LD Vx, DT` (R95). -/
def execLdVxDt (x : RegIx) (s : State) : Host.Outcome State Fault Refusal :=
  commit s (opLoad (.register x) .delayTimer .unused s)

/-- FX15 `LD DT, Vx` (R96). -/
def execLdDtVx (x : RegIx) (s : State) : Host.Outcome State Fault Refusal :=
  commit s (opLoad .delayTimer (.register x) .unused s)

/-- FX18 `LD ST, Vx` (R97). -/
def execLdStVx (x : RegIx) (s : State) : Host.Outcome State Fault Refusal :=
  commit s (opLoad .soundTimer (.register x) .unused s)

/-- FX29 `LD F, Vx` (R98). -/
def execLdFVx (x : RegIx) (s : State) : Host.Outcome State Fault Refusal :=
  commit s (opFont .indexRegister (.register x) .unused s)

/-- FX33 `LD B, Vx` (R99). -/
def execLdBVx (x : RegIx) (s : State) : Host.Outcome State Fault Refusal :=
  commit s (opBcd .indirectViaIndex (.register x) .unused s)

/-- FX55 `LD [I], Vx` (R101). -/
def execLdIndVx (x : RegIx) (s : State) : Host.Outcome State Fault Refusal :=
  commit s (opStash .indirectViaIndex (.register x) .unused s)

/-- FX65 `LD Vx, [I]` (R102). -/
def execLdVxInd (x : RegIx) (s : State) : Host.Outcome State Fault Refusal :=
  commit s (opFetch .unused (.register x) .unused s)

end Sys2Proof.Machine
end

