-- ==== Sys2Proof/Machine/Step.lean ====
section
/-! DEFINITION. The step (40_cycle_and_operands.md R69) and the placing of a word where it fetches. -/

namespace Sys2Proof.Machine

/-- One step: inputs, halted check, tick, fetch, advance, decode, execute, commit (R69, in the order of
60_exceptions.md R128). A configuration outside the legal values is refused
(93_implementation_defined.md U13). One step is one change of the state (log 15). -/
def step (s : State) : Host.Outcome State Fault Refusal :=
  if s.cfg.legal = false then .refused .illegalConfig
  else if s.latchInput.halted then .next s.latchInput.commitHalted
  else
    match s.latchInput.applyTick.fetchWord with
    | none => .next s.latchInput.applyTick.commitFetchBounds
    | some w =>
      match decode w with
      | .ok i => exec i (s.latchInput.applyTick.advance w)
      | .error _ => commit (s.latchInput.applyTick.advance w) (.raise (.decodeMiss w))

/-- The state with a word stored at pc, and running, so that the next step fetches it (log 11). A pc at which
no word can be fetched is left as it is. -/
def State.withFetchWord (s : State) (nbits w : Nat) : State :=
  if s.cfg.memSize ≤ s.pc.toNat + 1 then s
  else
    { s.storeBytes s.pc.toNat [highByte (tableWord nbits w), lowByte (tableWord nbits w)] with
      halted := false, haltCause := .noCause }

end Sys2Proof.Machine
end

