-- ==== Sys2Proof/Machine/Execute.lean ====
section
/-! DEFINITION. The execute phase in the spec's own form (40_cycle_and_operands.md R75): one exhaustive match
over the 26 operations, each handed the three operands the table-driven decoder extracts. `exec` is the same
machine dispatched by instruction; a statement for the provers says that the two agree. -/

namespace Sys2Proof.Machine

/-- The arms of R75. -/
def execute (op : Operation) (dest src aux : Operand) (s : State) : Effect :=
  match op with
  | .add => opAdd dest src aux s
  | .sub => opSub dest src aux s
  | .subN => opSubN dest src aux s
  | .or => opOr dest src aux s
  | .and => opAnd dest src aux s
  | .xor => opXor dest src aux s
  | .shiftRight => opShiftRight dest src aux s
  | .shiftLeft => opShiftLeft dest src aux s
  | .load => opLoad dest src aux s
  | .font => opFont dest src aux s
  | .bcd => opBcd dest src aux s
  | .rand => opRand dest src aux s
  | .skipEq => opSkipEq dest src aux s
  | .skipNeq => opSkipNeq dest src aux s
  | .skipKey => opSkipKey dest src aux s
  | .skipNKey => opSkipNKey dest src aux s
  | .jump => opJump dest src aux s
  | .jumpV0 => opJumpV0 dest src aux s
  | .call => opCall dest src aux s
  | .ret => opRet dest src aux s
  | .sys => opSys dest src aux s
  | .cls => opCls dest src aux s
  | .sprite => opSprite dest src aux s
  | .stash => opStash dest src aux s
  | .fetch => opFetch dest src aux s
  | .waitKey => opWaitKey dest src aux s

/-- Phases 5 and 6 of R69 for a fetched word, by the table's operation and operands. -/
def executeWord (w : Word) (s : State) : Host.Outcome State Fault Refusal :=
  match decodeOperands w with
  | none => commit s (.raise (.decodeMiss w))
  | some d => commit s (execute d.operation d.dest d.src d.aux s)

end Sys2Proof.Machine
end

