-- ==== Sys2Proof/Safety.lean ====
section
/-! DEFINITION. The terms in which claims are stated: the parts of the state and what leaves them unchanged,
what a raised error does, who may write what, the invariant of the machine, and the end of a run. -/

namespace Sys2Proof.Machine

/-! ## Frames -/

/-- The parts of the state. -/
inductive Part where
  | config | regs | index | pc | delayTimer | soundTimer | stack | memory | framebuffer
  | waitLatch | halting | inputs | fetched | report
deriving DecidableEq, Repr

/-- A part is the same in two states. Memory is compared by what every address reads as. -/
def Unchanged (p : Part) (s t : State) : Prop :=
  match p with
  | .config => t.cfg = s.cfg
  | .regs => ∀ r, t.getV r = s.getV r
  | .index => t.i = s.i
  | .pc => t.pc = s.pc
  | .delayTimer => t.dt = s.dt
  | .soundTimer => t.st = s.st
  | .stack => t.stack = s.stack
  | .memory => ∀ a, t.readMem a = s.readMem a
  | .framebuffer => ∀ y x, FrameBuffer.pixel t.fb y x = FrameBuffer.pixel s.fb y x
  | .waitLatch => t.wkActive = s.wkActive ∧ t.wkPrev = s.wkPrev
  | .halting => t.halted = s.halted ∧ t.haltCause = s.haltCause
  | .inputs => t.input = s.input ∧ t.pending = s.pending ∧ t.stepNo = s.stepNo
  | .fetched => t.fetched = s.fetched
  | .report => t.report = s.report

/-- Every part but those listed is unchanged. -/
def KeepsAllBut (ps : List Part) (s t : State) : Prop := ∀ p, p ∉ ps → Unchanged p s t

/-! ## Outcomes -/

/-- The step from s to t reports `Ok` (60_exceptions.md R121). -/
def ReportsOk (s t : State) : Prop := t.report = some (s.reportOf .ok .noCause none)

/-- From the advanced state s a guest error was raised and committed (R122, R123): the report, and `halted`
with the cause when `GUEST_ERROR_POLICY` is halt; nothing else. -/
def RaisesGuestError (c : Cause) (info : Nat) (s t : State) : Prop :=
  t.report = some (s.reportOf .guestError c (some info)) ∧
  KeepsAllBut [.halting, .report] s t ∧
  (s.cfg.guestErrorPolicy = .proceed → Unchanged .halting s t) ∧
  (s.cfg.guestErrorPolicy = .halt → t.halted = true ∧ t.haltCause = c)

/-- From the advanced state s a decode-miss or a Sys was raised and committed (R122, R123). -/
def RaisesMiss (k : OutcomeKind) (c : Cause) (info : Nat) (s t : State) : Prop :=
  t.report = some (s.reportOf k c (some info)) ∧
  KeepsAllBut [.halting, .report] s t ∧
  (s.cfg.missPolicy = .skip → Unchanged .halting s t) ∧
  (s.cfg.missPolicy = .halt → t.halted = true ∧ t.haltCause = c)

/-- The kind and cause pairs of R121 that a step of this block can report: `TableWiring` is not among them
(40_cycle_and_operands.md R76). -/
def Report.legal (r : Report) : Bool :=
  match r.kind with
  | .ok => r.cause == .noCause
  | .waiting => r.cause == .noCause
  | .halted => true
  | .decodeMiss => r.cause == .decodeMiss
  | .sys => r.cause == .sysUnsupported
  | .guestError =>
    r.cause == .stackUnderflow || r.cause == .stackOverflow || r.cause == .memBounds ||
    r.cause == .fetchBounds || r.cause == .keyIndexRange
  | .tableWiring => false

/-! ## The sprite -/

/-- A set bit of the n-row sprite at I lands on pixel (px, py) when drawn at (cx, cy) (44_display_input.md
R116: bit 7 leftmost, both coordinates wrapping). -/
def SpriteCovers (s : State) (cx cy n : Nat) (py : Fin 32) (px : Fin 64) : Prop :=
  ∃ r c : Nat, r < n ∧ c < 8 ∧ (cy + r) % 32 = py.val ∧ (cx + c) % 64 = px.val ∧
    (s.readMem (s.i.toNat + r)).getLsbD (7 - c) = true

/-- The n-row sprite at I has a set bit. -/
def SpriteHasBit (s : State) (n : Nat) : Prop :=
  ∃ r c : Nat, r < n ∧ c < 8 ∧ (s.readMem (s.i.toNat + r)).getLsbD (7 - c) = true

/-! ## The invariant -/

/-- While a WaitKey is in progress, pc points at its FX0A word (44_display_input.md R120). -/
def WaitsAtItsWord (s : State) : Prop :=
  s.wkActive = true → ∃ w x, s.fetchWord = some w ∧ decode w = .ok (.ldVxK x)

/-- The invariant of the machine. -/
structure Inv (s : State) : Prop where
  /-- The configuration is legal (00_scope.md R8, R9, decision D32). -/
  legal : s.cfg.legal = true
  /-- Memory is in its canonical form, within `MEM_SIZE`. -/
  memWf : s.memWf = true
  /-- 0 ≤ depth(S) ≤ `STACK_DEPTH` (10_state.md R25). -/
  depth : ∀ d, s.cfg.stackDepth = some d → s.stack.length ≤ d
  /-- `halt_cause` is 0 exactly while running (R22). -/
  cause : s.halted = false ↔ s.haltCause = .noCause
  /-- A WaitKey in progress is at its own word (R29, R120). -/
  wait : WaitsAtItsWord s

/-! ## The end of a run -/

/-- The step whose result is s ended a run: it halted, or its word is a self-jump `1NNN` at its own address
(70_reset_and_hazards.md R142; log 19). -/
def State.endsRun (s : State) : Bool :=
  s.halted ||
  (match s.fetched with
   | none => false
   | some f => f.word.toNat == 0x1000 + f.addr.toNat && decide (f.addr.toNat < 0x1000))

/-! ## Comparing steps -/

/-- A state map carried over an outcome. -/
def mapNext (f : State → State) : Host.Outcome State Fault Refusal → Host.Outcome State Fault Refusal
  | .next s => .next (f s)
  | .fault r => .fault r
  | .refused r => .refused r

/-- The state with another value of `DEBUG`. -/
def State.withDebug (b : Bool) (s : State) : State := { s with cfg := { s.cfg with debug := b } }

/-- The state with another key snapshot for the step in progress. -/
def State.withKeys (k : KeySet) (s : State) : State := { s with input := { s.input with keys := k } }

/-- The state with another random draw for the step in progress. -/
def State.withRnd (r : BitVec 32) (s : State) : State := { s with input := { s.input with rnd := r } }

end Sys2Proof.Machine
end

