-- ==== Sys2Proof/Certificates/Slice0/Obligations.lean ====
section
/-! DEFINITION. The statements for the provers. Each docstring names the rule of spec/ it formalises.
An instruction's statement gives its decoding (the `Operands` and `Encoding` lines of its rule), the next state
it answers, and its frame. `exec i s` is taken from the advanced state s: pc is already a + 2
(40_cycle_and_operands.md R71). -/

open Sys2Proof Sys2Proof.Machine

/-! ## Terms -/

/-- Every word that has `value` under `mask` decodes to the instruction f gives, and to the operation and
operands g gives. -/
def Sys2Proof.RowDecodes (mask value : Word) (f : Word → Instr) (g : Word → Decoded) : Prop :=
  ∀ w : Word, w &&& mask = value → decode w = .ok (f w) ∧ decodeOperands w = some (g w)

/-- The decode-miss words of 30_encoding.md R63. -/
def Sys2Proof.IsMissWord (w : Word) : Prop :=
  (nibble w 3 = 0x5 ∧ nField w ≠ 0) ∨
  (nibble w 3 = 0x8 ∧ (nField w = 0x8 ∨ nField w = 0x9 ∨ nField w = 0xA ∨ nField w = 0xB ∨ nField w = 0xC ∨
    nField w = 0xD ∨ nField w = 0xF)) ∨
  (nibble w 3 = 0x9 ∧ nField w ≠ 0) ∨
  (nibble w 3 = 0xE ∧ kkField w ≠ 0x9E ∧ kkField w ≠ 0xA1) ∨
  (nibble w 3 = 0xF ∧ kkField w ≠ 0x07 ∧ kkField w ≠ 0x0A ∧ kkField w ≠ 0x15 ∧ kkField w ≠ 0x18 ∧
    kkField w ≠ 0x1E ∧ kkField w ≠ 0x29 ∧ kkField w ≠ 0x33 ∧ kkField w ≠ 0x55 ∧ kkField w ≠ 0x65)

/-- The instructions that may write register r (10_state.md R18, R20). -/
def Sys2Proof.mayWriteReg (i : Instr) (r : RegIx) : Bool :=
  match i with
  | .ldVxKk x _ => r == x
  | .addVxKk x _ => r == x
  | .ldVxVy x _ => r == x
  | .orVxVy x _ => r == x
  | .andVxVy x _ => r == x
  | .xorVxVy x _ => r == x
  | .addVxVy x _ => r == x || r == 15
  | .subVxVy x _ => r == x || r == 15
  | .shrVxVy x _ => r == x || r == 15
  | .subnVxVy x _ => r == x || r == 15
  | .shlVxVy x _ => r == x || r == 15
  | .rnd x _ => r == x
  | .drw _ _ _ => r == 15
  | .ldVxDt x => r == x
  | .ldVxK x => r == x
  | .ldVxInd x => decide (r ≤ x)
  | _ => false

/-- The instructions whose own operation may raise an outcome (60_exceptions.md R122). -/
def Sys2Proof.mayRaise : Instr → Bool
  | .sys _ => true
  | .ret => true
  | .call _ => true
  | .drw _ _ _ => true
  | .ldBVx _ => true
  | .ldIndVx _ => true
  | .ldVxInd _ => true
  | .skp _ => true
  | .sknp _ => true
  | _ => false

/-- The instructions that may write a part of the state other than the registers (10_state.md R19, R21-R25,
R29, 20_memory.md R35, 60_exceptions.md R131). -/
def Sys2Proof.mayWritePart (c : Config) (i : Instr) : Part → Bool
  | .config => false
  | .regs => true
  | .index =>
    (match i with
     | .ldINnn _ => true
     | .addIVx _ => true
     | .ldFVx _ => true
     | .ldIndVx _ => c.loadStoreIncrementsI
     | .ldVxInd _ => c.loadStoreIncrementsI
     | _ => false)
  | .pc =>
    (match i with
     | .jp _ => true
     | .jpV0 _ => true
     | .call _ => true
     | .ret => true
     | .seVxKk _ _ => true
     | .sneVxKk _ _ => true
     | .seVxVy _ _ => true
     | .sneVxVy _ _ => true
     | .skp _ => true
     | .sknp _ => true
     | .ldVxK _ => true
     | _ => false)
  | .delayTimer => (match i with | .ldDtVx _ => true | _ => false)
  | .soundTimer => (match i with | .ldStVx _ => true | _ => false)
  | .stack => (match i with | .call _ => true | .ret => true | _ => false)
  | .memory => (match i with | .ldBVx _ => true | .ldIndVx _ => true | _ => false)
  | .framebuffer => (match i with | .cls => true | .drw _ _ _ => true | _ => false)
  | .waitLatch => (match i with | .ldVxK _ => true | _ => false)
  | .halting => mayRaise i
  | .inputs => false
  | .fetched => false
  | .report => true

/-- The instructions that read `KEYS` (10_state.md R28, 60_exceptions.md R127). -/
def Sys2Proof.readsKeys : Instr → Bool
  | .skp _ => true
  | .sknp _ => true
  | .ldVxK _ => true
  | _ => false

/-- The instructions that read `rnd` (40_cycle_and_operands.md R68). -/
def Sys2Proof.readsRnd : Instr → Bool
  | .rnd _ _ => true
  | _ => false

/-! ## Encoding -/

/-- Decode and encode agree, for every well-formed instruction with every operand (30_encoding.md R50, R54, R55,
R57, R59). -/
def Obligations.DecodeOfEncodeIsTheInstruction : Prop :=
  ∀ i : Instr, i.wellFormed = true → decode (encode i) = .ok i

/-- Each word has at most one meaning: a decoded instruction is well formed, and its encoding is the word it was
decoded from (R54, R61). -/
def Obligations.EncodeOfDecodeIsTheWord : Prop :=
  ∀ (w : Word) (i : Instr), decode w = .ok i → i.wellFormed = true ∧ encode i = w

/-- Words written out bit by bit from R59, at least one of each family, decode to their instructions. -/
def Obligations.WrittenOutWordsDecode : Prop :=
  decode 0b0111001100000101 = .ok (.addVxKk 3 5) ∧
  decode 0b1000000000010100 = .ok (.addVxVy 0 1) ∧
  decode 0b1000000100101110 = .ok (.shlVxVy 1 2) ∧
  decode 0b1010101111001101 = .ok (.ldINnn 0xBCD) ∧
  decode 0b1111101000110011 = .ok (.ldBVx 10) ∧
  decode 0b1111001001010101 = .ok (.ldIndVx 2) ∧
  decode 0b0001001000110100 = .ok (.jp 0x234) ∧
  decode 0b1011000100100011 = .ok (.jpV0 0x123) ∧
  decode 0b1101000100101111 = .ok (.drw 1 2 15) ∧
  decode 0b1110000110100001 = .ok (.sknp 1) ∧
  decode 0b0000000011100000 = .ok .cls ∧
  decode 0b0000000011101110 = .ok .ret ∧
  decode 0b0101000100100001 = .error (.miss 0b0101000100100001)

/-- The decode-miss words are exactly those of R63's conditions; every other word decodes. -/
def Obligations.DecodeMissWordsExactly : Prop :=
  ∀ w : Word,
    (IsMissWord w → decode w = .error (.miss w) ∧ decodeOperands w = none) ∧
    (¬ IsMissWord w → ∃ i, decode w = .ok i)

/-- R61: two rows that accept a common word are row 3 and one of rows 1 and 2, which precede it; so 00E0 is CLS
and 00EE is RET. Row 3 does accept the words of both. -/
def Obligations.OnlyRow3Overlaps : Prop :=
  (∀ (j k : Nat) (d e : InstrDef) (w : Word), j < k → instrTable[j]? = some d → instrTable[k]? = some e →
    d.accepts w = true → e.accepts w = true → k = 2 ∧ (j = 0 ∨ j = 1)) ∧
  (∀ e, instrTable[2]? = some e → e.accepts 0x00E0 = true ∧ e.accepts 0x00EE = true) ∧
  decode 0x00E0 = .ok .cls ∧ decode 0x00EE = .ok .ret

/-- R62: the word of a row with all marker nibbles 0, the row's match value, selects that row and no earlier one. -/
def Obligations.EveryRowIsReachable : Prop :=
  instrTable.length = 35 ∧
  ∀ (k : Nat) (d : InstrDef), instrTable[k]? = some d →
    d.accepts (codingValue d.coding) = true ∧
    ∀ (j : Nat) (e : InstrDef), j < k → instrTable[j]? = some e → e.accepts (codingValue d.coding) = false

/-! ## Register ALU -/

/-- R80 `ADD Vx, Vy`. -/
def Obligations.AddVxVySetsCarry : Prop :=
  RowDecodes 0xF00F 0x8004 (fun w => .addVxVy (xField w) (yField w))
    (fun w => ⟨.add, .register (xField w), .register (yField w), .unused⟩) ∧
  ∀ (x y : RegIx) (s : State), ∃ t, exec (.addVxVy x y) s = .next t ∧
    (x ≠ 15 → t.getV x = s.getV x + s.getV y) ∧
    t.getV 15 = (if 0xFF < (s.getV x).toNat + (s.getV y).toNat then 1 else 0) ∧
    (∀ r, r ≠ x → r ≠ 15 → t.getV r = s.getV r) ∧
    ReportsOk s t ∧ KeepsAllBut [.regs, .report] s t

/-- R79 `ADD Vx, kk`: no flag. -/
def Obligations.AddVxKkSetsNoFlag : Prop :=
  RowDecodes 0xF000 0x7000 (fun w => .addVxKk (xField w) (kkField w))
    (fun w => ⟨.add, .register (xField w), .immediate8 (kkField w), .unused⟩) ∧
  ∀ (x : RegIx) (kk : Byte) (s : State), ∃ t, exec (.addVxKk x kk) s = .next t ∧
    t.getV x = s.getV x + kk ∧
    (∀ r, r ≠ x → t.getV r = s.getV r) ∧
    ReportsOk s t ∧ KeepsAllBut [.regs, .report] s t

/-- R81 `ADD I, Vx`: 16 bits, no flag. -/
def Obligations.AddIVxIs16Bit : Prop :=
  RowDecodes 0xF0FF 0xF01E (fun w => .addIVx (xField w))
    (fun w => ⟨.add, .indexRegister, .register (xField w), .unused⟩) ∧
  ∀ (x : RegIx) (s : State), ∃ t, exec (.addIVx x) s = .next t ∧
    t.i = s.i + (s.getV x).setWidth 16 ∧
    ReportsOk s t ∧ KeepsAllBut [.index, .report] s t

/-- R82 `SUB Vx, Vy`. -/
def Obligations.SubVxVySetsNoBorrow : Prop :=
  RowDecodes 0xF00F 0x8005 (fun w => .subVxVy (xField w) (yField w))
    (fun w => ⟨.sub, .register (xField w), .register (yField w), .unused⟩) ∧
  ∀ (x y : RegIx) (s : State), ∃ t, exec (.subVxVy x y) s = .next t ∧
    (x ≠ 15 → t.getV x = s.getV x - s.getV y) ∧
    t.getV 15 = (if (s.getV y).toNat ≤ (s.getV x).toNat then 1 else 0) ∧
    (∀ r, r ≠ x → r ≠ 15 → t.getV r = s.getV r) ∧
    ReportsOk s t ∧ KeepsAllBut [.regs, .report] s t

/-- R83 `SUBN Vx, Vy`. -/
def Obligations.SubnVxVySetsNoBorrow : Prop :=
  RowDecodes 0xF00F 0x8007 (fun w => .subnVxVy (xField w) (yField w))
    (fun w => ⟨.subN, .register (xField w), .register (yField w), .unused⟩) ∧
  ∀ (x y : RegIx) (s : State), ∃ t, exec (.subnVxVy x y) s = .next t ∧
    (x ≠ 15 → t.getV x = s.getV y - s.getV x) ∧
    t.getV 15 = (if (s.getV x).toNat ≤ (s.getV y).toNat then 1 else 0) ∧
    (∀ r, r ≠ x → r ≠ 15 → t.getV r = s.getV r) ∧
    ReportsOk s t ∧ KeepsAllBut [.regs, .report] s t

/-- R84, R85, R86 `OR`, `AND`, `XOR Vx, Vy`: VF is unaffected unless it is the destination. -/
def Obligations.BitwiseOpsSetNoFlag : Prop :=
  RowDecodes 0xF00F 0x8001 (fun w => .orVxVy (xField w) (yField w))
    (fun w => ⟨.or, .register (xField w), .register (yField w), .unused⟩) ∧
  RowDecodes 0xF00F 0x8002 (fun w => .andVxVy (xField w) (yField w))
    (fun w => ⟨.and, .register (xField w), .register (yField w), .unused⟩) ∧
  RowDecodes 0xF00F 0x8003 (fun w => .xorVxVy (xField w) (yField w))
    (fun w => ⟨.xor, .register (xField w), .register (yField w), .unused⟩) ∧
  ∀ (x y : RegIx) (s : State),
    (∃ t, exec (.orVxVy x y) s = .next t ∧ t.getV x = s.getV x ||| s.getV y ∧
      (∀ r, r ≠ x → t.getV r = s.getV r) ∧ ReportsOk s t ∧ KeepsAllBut [.regs, .report] s t) ∧
    (∃ t, exec (.andVxVy x y) s = .next t ∧ t.getV x = s.getV x &&& s.getV y ∧
      (∀ r, r ≠ x → t.getV r = s.getV r) ∧ ReportsOk s t ∧ KeepsAllBut [.regs, .report] s t) ∧
    (∃ t, exec (.xorVxVy x y) s = .next t ∧ t.getV x = s.getV x ^^^ s.getV y ∧
      (∀ r, r ≠ x → t.getV r = s.getV r) ∧ ReportsOk s t ∧ KeepsAllBut [.regs, .report] s t)

/-- R88 `SHR Vx, Vy`: dest := src >> 1. -/
def Obligations.ShrShiftsTheSource : Prop :=
  RowDecodes 0xF00F 0x8006 (fun w => .shrVxVy (xField w) (yField w))
    (fun w => ⟨.shiftRight, .register (xField w), .register (yField w), .unused⟩) ∧
  ∀ (x y : RegIx) (s : State), ∃ t, exec (.shrVxVy x y) s = .next t ∧
    (x ≠ 15 → t.getV x = s.getV y >>> 1) ∧
    t.getV 15 = (if (s.getV y).getLsbD 0 = true then 1 else 0) ∧
    (∀ r, r ≠ x → r ≠ 15 → t.getV r = s.getV r) ∧
    ReportsOk s t ∧ KeepsAllBut [.regs, .report] s t

/-- R89 `SHL Vx, Vy`: dest := (src << 1) & 0xFF. -/
def Obligations.ShlShiftsTheSource : Prop :=
  RowDecodes 0xF00F 0x800E (fun w => .shlVxVy (xField w) (yField w))
    (fun w => ⟨.shiftLeft, .register (xField w), .register (yField w), .unused⟩) ∧
  ∀ (x y : RegIx) (s : State), ∃ t, exec (.shlVxVy x y) s = .next t ∧
    (x ≠ 15 → t.getV x = s.getV y <<< 1) ∧
    t.getV 15 = (if (s.getV y).getLsbD 7 = true then 1 else 0) ∧
    (∀ r, r ≠ x → r ≠ 15 → t.getV r = s.getV r) ∧
    ReportsOk s t ∧ KeepsAllBut [.regs, .report] s t

/-- R90 `RND Vx, kk`: the low byte of the step's draw, whatever it is, under the mask. -/
def Obligations.RndMasksTheDraw : Prop :=
  RowDecodes 0xF000 0xC000 (fun w => .rnd (xField w) (kkField w))
    (fun w => ⟨.rand, .register (xField w), .immediate8 (kkField w), .unused⟩) ∧
  ∀ (x : RegIx) (kk : Byte) (s : State), ∃ t, exec (.rnd x kk) s = .next t ∧
    t.getV x = s.input.rnd.setWidth 8 &&& kk ∧
    (∀ r, r ≠ x → t.getV r = s.getV r) ∧
    ReportsOk s t ∧ KeepsAllBut [.regs, .report] s t

/-! ## Loads and stores -/

/-- R92, R93 `LD Vx, kk` and `LD Vx, Vy`. -/
def Obligations.LoadRegisterCopies : Prop :=
  RowDecodes 0xF000 0x6000 (fun w => .ldVxKk (xField w) (kkField w))
    (fun w => ⟨.load, .register (xField w), .immediate8 (kkField w), .unused⟩) ∧
  RowDecodes 0xF00F 0x8000 (fun w => .ldVxVy (xField w) (yField w))
    (fun w => ⟨.load, .register (xField w), .register (yField w), .unused⟩) ∧
  ∀ (x y : RegIx) (kk : Byte) (s : State),
    (∃ t, exec (.ldVxKk x kk) s = .next t ∧ t.getV x = kk ∧
      (∀ r, r ≠ x → t.getV r = s.getV r) ∧ ReportsOk s t ∧ KeepsAllBut [.regs, .report] s t) ∧
    (∃ t, exec (.ldVxVy x y) s = .next t ∧ t.getV x = s.getV y ∧
      (∀ r, r ≠ x → t.getV r = s.getV r) ∧ ReportsOk s t ∧ KeepsAllBut [.regs, .report] s t)

/-- R95 `LD Vx, DT`; in a step with a tick the value read is the decremented one. -/
def Obligations.LoadDelayTimerReadsAfterTick : Prop :=
  RowDecodes 0xF0FF 0xF007 (fun w => .ldVxDt (xField w))
    (fun w => ⟨.load, .register (xField w), .delayTimer, .unused⟩) ∧
  (∀ (x : RegIx) (s : State), ∃ t, exec (.ldVxDt x) s = .next t ∧ t.getV x = s.dt ∧
    (∀ r, r ≠ x → t.getV r = s.getV r) ∧ ReportsOk s t ∧ KeepsAllBut [.regs, .report] s t) ∧
  (∀ (x : RegIx) (s : State) (w : Word), s.cfg.legal = true → s.halted = false → s.fetchWord = some w →
    decode w = .ok (.ldVxDt x) → s.nextInput.tick = true → s.dt ≠ 0 →
    ∃ t, step s = .next t ∧ t.getV x = s.dt - 1 ∧ t.dt = s.dt - 1)

/-- R94 `LD I, nnn`. -/
def Obligations.LoadIndexClearsHighBits : Prop :=
  RowDecodes 0xF000 0xA000 (fun w => .ldINnn (nnnField w))
    (fun w => ⟨.load, .indexRegister, .immediate12 (nnnField w), .unused⟩) ∧
  ∀ (nnn : BitVec 12) (s : State), ∃ t, exec (.ldINnn nnn) s = .next t ∧
    t.i = nnn.setWidth 16 ∧ ReportsOk s t ∧ KeepsAllBut [.index, .report] s t

/-- R96, R97 `LD DT, Vx` and `LD ST, Vx`; the value written is not decremented by the tick of its own step. -/
def Obligations.LoadTimersWriteTheRegister : Prop :=
  RowDecodes 0xF0FF 0xF015 (fun w => .ldDtVx (xField w))
    (fun w => ⟨.load, .delayTimer, .register (xField w), .unused⟩) ∧
  RowDecodes 0xF0FF 0xF018 (fun w => .ldStVx (xField w))
    (fun w => ⟨.load, .soundTimer, .register (xField w), .unused⟩) ∧
  (∀ (x : RegIx) (s : State),
    (∃ t, exec (.ldDtVx x) s = .next t ∧ t.dt = s.getV x ∧
      ReportsOk s t ∧ KeepsAllBut [.delayTimer, .report] s t) ∧
    (∃ t, exec (.ldStVx x) s = .next t ∧ t.st = s.getV x ∧
      ReportsOk s t ∧ KeepsAllBut [.soundTimer, .report] s t)) ∧
  (∀ (x : RegIx) (s : State) (w : Word), s.cfg.legal = true → s.halted = false → s.fetchWord = some w →
    (decode w = .ok (.ldDtVx x) → ∃ t, step s = .next t ∧ t.dt = s.getV x) ∧
    (decode w = .ok (.ldStVx x) → ∃ t, step s = .next t ∧ t.st = s.getV x))

/-- R98 `LD F, Vx`: the full byte, not masked to a nibble. -/
def Obligations.FontAddressesTheGlyph : Prop :=
  RowDecodes 0xF0FF 0xF029 (fun w => .ldFVx (xField w))
    (fun w => ⟨.font, .indexRegister, .register (xField w), .unused⟩) ∧
  ∀ (x : RegIx) (s : State), ∃ t, exec (.ldFVx x) s = .next t ∧
    t.i.toNat = (s.cfg.fontBase + s.cfg.fontGlyphStride * (s.getV x).toNat) % 0x10000 ∧
    ReportsOk s t ∧ KeepsAllBut [.index, .report] s t

/-- R99 `LD B, Vx`: three digits at I, I + 1, I + 2, or MEM_BOUNDS before any write. -/
def Obligations.BcdStoresThreeDigits : Prop :=
  RowDecodes 0xF0FF 0xF033 (fun w => .ldBVx (xField w))
    (fun w => ⟨.bcd, .indirectViaIndex, .register (xField w), .unused⟩) ∧
  ∀ (x : RegIx) (s : State),
    (s.i.toNat + 2 < s.cfg.memSize → ∃ t, exec (.ldBVx x) s = .next t ∧
      (t.readMem s.i.toNat).toNat = (s.getV x).toNat / 100 ∧
      (t.readMem (s.i.toNat + 1)).toNat = (s.getV x).toNat / 10 % 10 ∧
      (t.readMem (s.i.toNat + 2)).toNat = (s.getV x).toNat % 10 ∧
      (∀ a, a < s.i.toNat ∨ s.i.toNat + 2 < a → t.readMem a = s.readMem a) ∧
      ReportsOk s t ∧ KeepsAllBut [.memory, .report] s t) ∧
    (s.cfg.memSize ≤ s.i.toNat + 2 → ∃ t, exec (.ldBVx x) s = .next t ∧
      RaisesGuestError .memBounds (max s.i.toNat s.cfg.memSize) s t)

/-- R101 with R100 `LD [I], Vx`: V0..Vx stored from I on, or MEM_BOUNDS before any write. -/
def Obligations.StashStoresRegisters : Prop :=
  RowDecodes 0xF0FF 0xF055 (fun w => .ldIndVx (xField w))
    (fun w => ⟨.stash, .indirectViaIndex, .register (xField w), .unused⟩) ∧
  ∀ (x : RegIx) (s : State),
    (s.i.toNat + x.val < s.cfg.memSize → ∃ t, exec (.ldIndVx x) s = .next t ∧
      (∀ r, r ≤ x → t.readMem (s.i.toNat + r.val) = s.getV r) ∧
      (∀ a, a < s.i.toNat ∨ s.i.toNat + x.val < a → t.readMem a = s.readMem a) ∧
      t.i.toNat = (if s.cfg.loadStoreIncrementsI then (s.i.toNat + x.val + 1) % 0x10000 else s.i.toNat) ∧
      ReportsOk s t ∧ KeepsAllBut [.memory, .index, .report] s t) ∧
    (s.cfg.memSize ≤ s.i.toNat + x.val → ∃ t, exec (.ldIndVx x) s = .next t ∧
      RaisesGuestError .memBounds (max s.i.toNat s.cfg.memSize) s t)

/-- R102 with R100 `LD Vx, [I]`: V0..Vx loaded from I on, or MEM_BOUNDS before any write. -/
def Obligations.FetchLoadsRegisters : Prop :=
  RowDecodes 0xF0FF 0xF065 (fun w => .ldVxInd (xField w))
    (fun w => ⟨.fetch, .unused, .register (xField w), .unused⟩) ∧
  ∀ (x : RegIx) (s : State),
    (s.i.toNat + x.val < s.cfg.memSize → ∃ t, exec (.ldVxInd x) s = .next t ∧
      (∀ r, r ≤ x → t.getV r = s.readMem (s.i.toNat + r.val)) ∧
      (∀ r, x < r → t.getV r = s.getV r) ∧
      t.i.toNat = (if s.cfg.loadStoreIncrementsI then (s.i.toNat + x.val + 1) % 0x10000 else s.i.toNat) ∧
      ReportsOk s t ∧ KeepsAllBut [.regs, .index, .report] s t) ∧
    (s.cfg.memSize ≤ s.i.toNat + x.val → ∃ t, exec (.ldVxInd x) s = .next t ∧
      RaisesGuestError .memBounds (max s.i.toNat s.cfg.memSize) s t)

/-- R47, R99: digits that BCD stores over the next instruction are what the next fetch reads. -/
def Obligations.StoredBytesAreFetchedNext : Prop :=
  ∀ (x : RegIx) (s : State), s.i = s.pc → s.i.toNat + 2 < s.cfg.memSize →
    ∃ t, exec (.ldBVx x) s = .next t ∧
      t.fetchWord = some (BitVec.ofNat 16 ((s.getV x).toNat / 100 * 256 + (s.getV x).toNat / 10 % 10))

/-! ## Control transfer -/

/-- R105, R106 `JP nnn` and `JP V0, nnn`. -/
def Obligations.JumpsSetPc : Prop :=
  RowDecodes 0xF000 0x1000 (fun w => .jp (nnnField w))
    (fun w => ⟨.jump, .immediate12 (nnnField w), .unused, .unused⟩) ∧
  RowDecodes 0xF000 0xB000 (fun w => .jpV0 (nnnField w))
    (fun w => ⟨.jumpV0, .immediate12 (nnnField w), .unused, .unused⟩) ∧
  ∀ (nnn : BitVec 12) (s : State),
    (∃ t, exec (.jp nnn) s = .next t ∧ t.pc = nnn.setWidth 16 ∧
      ReportsOk s t ∧ KeepsAllBut [.pc, .report] s t) ∧
    (∃ t, exec (.jpV0 nnn) s = .next t ∧ t.pc.toNat = nnn.toNat + (s.getV 0).toNat ∧
      ReportsOk s t ∧ KeepsAllBut [.pc, .report] s t)

/-- R107 `CALL nnn`: pc, which is a + 2, is pushed; STACK_OVERFLOW at a depth of `STACK_DEPTH`. That a depth above
`STACK_DEPTH`, which R107 does not name and no run reaches, raises as well is the model's choice (log 13, DEDUCED). -/
def Obligations.CallPushesTheReturnAddress : Prop :=
  RowDecodes 0xF000 0x2000 (fun w => .call (nnnField w))
    (fun w => ⟨.call, .immediate12 (nnnField w), .unused, .unused⟩) ∧
  ∀ (nnn : BitVec 12) (s : State),
    ((∀ d, s.cfg.stackDepth = some d → s.stack.length < d) → ∃ t, exec (.call nnn) s = .next t ∧
      t.stack = s.stack ++ [s.pc] ∧ t.pc = nnn.setWidth 16 ∧
      ReportsOk s t ∧ KeepsAllBut [.stack, .pc, .report] s t) ∧
    (∀ d, s.cfg.stackDepth = some d → d ≤ s.stack.length → ∃ t, exec (.call nnn) s = .next t ∧
      RaisesGuestError .stackOverflow s.stack.length s t)

/-- R108 `RET`: the last return address is popped; STACK_UNDERFLOW when there is none. -/
def Obligations.RetPopsTheReturnAddress : Prop :=
  RowDecodes 0xFFFF 0x00EE (fun _ => .ret) (fun _ => ⟨.ret, .unused, .unused, .unused⟩) ∧
  ∀ s : State,
    (∀ (S : List Word) (a : Word), s.stack = S ++ [a] → ∃ t, exec .ret s = .next t ∧
      t.stack = S ∧ t.pc = a ∧ ReportsOk s t ∧ KeepsAllBut [.stack, .pc, .report] s t) ∧
    (s.stack = [] → ∃ t, exec .ret s = .next t ∧ RaisesGuestError .stackUnderflow 0 s t)

/-- R108: a CALL followed by a RET restores pc to a + 2 of the CALL, and the stack. -/
def Obligations.CallThenRetRestoresPc : Prop :=
  ∀ (nnn : BitVec 12) (s : State) (w : Word),
    (∀ d, s.cfg.stackDepth = some d → s.stack.length < d) → s.cfg.legal = true → s.halted = false →
    ∃ t, exec (.call nnn) s = .next t ∧
      (t.fetchWord = some w → decode w = .ok .ret →
        ∃ u, step t = .next u ∧ u.pc = s.pc ∧ u.stack = s.stack ∧ ∀ r, u.getV r = s.getV r)

/-- R109-R112 with R104: the four register and immediate skips. -/
def Obligations.SkipsAdvanceByOneMoreWord : Prop :=
  RowDecodes 0xF000 0x3000 (fun w => .seVxKk (xField w) (kkField w))
    (fun w => ⟨.skipEq, .register (xField w), .immediate8 (kkField w), .unused⟩) ∧
  RowDecodes 0xF000 0x4000 (fun w => .sneVxKk (xField w) (kkField w))
    (fun w => ⟨.skipNeq, .register (xField w), .immediate8 (kkField w), .unused⟩) ∧
  RowDecodes 0xF00F 0x5000 (fun w => .seVxVy (xField w) (yField w))
    (fun w => ⟨.skipEq, .register (xField w), .register (yField w), .unused⟩) ∧
  RowDecodes 0xF00F 0x9000 (fun w => .sneVxVy (xField w) (yField w))
    (fun w => ⟨.skipNeq, .register (xField w), .register (yField w), .unused⟩) ∧
  ∀ (x y : RegIx) (kk : Byte) (s : State),
    (∃ t, exec (.seVxKk x kk) s = .next t ∧ t.pc = (if s.getV x = kk then s.pc + 2 else s.pc) ∧
      ReportsOk s t ∧ KeepsAllBut [.pc, .report] s t) ∧
    (∃ t, exec (.sneVxKk x kk) s = .next t ∧ t.pc = (if s.getV x ≠ kk then s.pc + 2 else s.pc) ∧
      ReportsOk s t ∧ KeepsAllBut [.pc, .report] s t) ∧
    (∃ t, exec (.seVxVy x y) s = .next t ∧ t.pc = (if s.getV x = s.getV y then s.pc + 2 else s.pc) ∧
      ReportsOk s t ∧ KeepsAllBut [.pc, .report] s t) ∧
    (∃ t, exec (.sneVxVy x y) s = .next t ∧ t.pc = (if s.getV x ≠ s.getV y then s.pc + 2 else s.pc) ∧
      ReportsOk s t ∧ KeepsAllBut [.pc, .report] s t)

/-- R113 `SYS nnn`: the outcome `Sys`, and what `MISS_POLICY` makes of it. -/
def Obligations.SysReportsAndDoesNothing : Prop :=
  (∀ w : Word, w &&& 0xF000 = 0 → w ≠ 0x00E0 → w ≠ 0x00EE →
    decode w = .ok (.sys (nnnField w)) ∧
    decodeOperands w = some ⟨.sys, .immediate12 (nnnField w), .unused, .unused⟩) ∧
  ∀ (nnn : BitVec 12) (s : State), ∃ t, exec (.sys nnn) s = .next t ∧
    RaisesMiss .sys .sysUnsupported nnn.toNat s t

/-! ## Display and keys -/

/-- R115 `CLS`: every pixel 0; idempotent. -/
def Obligations.ClsClearsEveryPixel : Prop :=
  RowDecodes 0xFFFF 0x00E0 (fun _ => .cls) (fun _ => ⟨.cls, .unused, .unused, .unused⟩) ∧
  ∀ s : State, ∃ t, exec .cls s = .next t ∧
    (∀ y x, FrameBuffer.pixel t.fb y x = false) ∧ ReportsOk s t ∧ KeepsAllBut [.framebuffer, .report] s t ∧
    ∃ u, exec .cls t = .next u ∧ u.fb = t.fb

/-- R116 `DRW Vx, Vy, n`: every pixel a set sprite bit lands on is flipped, every other pixel keeps its value,
VF says whether a set bit met a set pixel; or MEM_BOUNDS with nothing changed. -/
def Obligations.DrwXorsTheSprite : Prop :=
  RowDecodes 0xF000 0xD000 (fun w => .drw (xField w) (yField w) (nField w))
    (fun w => ⟨.sprite, .register (xField w), .register (yField w), .immediate4 (nField w)⟩) ∧
  ∀ (x y : RegIx) (n : Nibble) (s : State),
    (n = 0 ∨ s.i.toNat + n.toNat - 1 < s.cfg.memSize → ∃ t, exec (.drw x y n) s = .next t ∧
      (∀ py px,
        (SpriteCovers s (s.getV x).toNat (s.getV y).toNat n.toNat py px →
          FrameBuffer.pixel t.fb py px = !FrameBuffer.pixel s.fb py px) ∧
        (¬ SpriteCovers s (s.getV x).toNat (s.getV y).toNat n.toNat py px →
          FrameBuffer.pixel t.fb py px = FrameBuffer.pixel s.fb py px)) ∧
      ((∃ py px, SpriteCovers s (s.getV x).toNat (s.getV y).toNat n.toNat py px ∧
          FrameBuffer.pixel s.fb py px = true) → t.getV 15 = 1) ∧
      (¬ (∃ py px, SpriteCovers s (s.getV x).toNat (s.getV y).toNat n.toNat py px ∧
          FrameBuffer.pixel s.fb py px = true) → t.getV 15 = 0) ∧
      (∀ r, r ≠ 15 → t.getV r = s.getV r) ∧
      ReportsOk s t ∧ KeepsAllBut [.regs, .framebuffer, .report] s t) ∧
    (n ≠ 0 → s.cfg.memSize ≤ s.i.toNat + n.toNat - 1 → ∃ t, exec (.drw x y n) s = .next t ∧
      RaisesGuestError .memBounds (max s.i.toNat s.cfg.memSize) s t)

/-- R116: the same sprite drawn twice at the same place restores the framebuffer. The second draw sets VF exactly
when the sprite covers a pixel that was 0 before the first draw; R116's corner case (any set bit) is the case of a
screen with no covered pixel set (log 18). -/
def Obligations.DrwTwiceRestoresTheScreen : Prop :=
  ∀ (x y : RegIx) (n : Nibble) (s : State), x ≠ 15 → y ≠ 15 →
    (n = 0 ∨ s.i.toNat + n.toNat - 1 < s.cfg.memSize) →
    ∃ t u, exec (.drw x y n) s = .next t ∧ exec (.drw x y n) t = .next u ∧ u.fb = s.fb ∧
      ((∃ py px, SpriteCovers s (s.getV x).toNat (s.getV y).toNat n.toNat py px ∧
          FrameBuffer.pixel s.fb py px = false) → u.getV 15 = 1) ∧
      (¬ (∃ py px, SpriteCovers s (s.getV x).toNat (s.getV y).toNat n.toNat py px ∧
          FrameBuffer.pixel s.fb py px = false) → u.getV 15 = 0) ∧
      (SpriteHasBit s n.toNat →
        (∀ py px, SpriteCovers s (s.getV x).toNat (s.getV y).toNat n.toNat py px →
          FrameBuffer.pixel s.fb py px = false) → u.getV 15 = 1)

/-- R117, R118, R119 `SKP Vx` and `SKNP Vx`: the snapshot decides the skip; an index above 15 raises. -/
def Obligations.KeySkipsReadTheSnapshot : Prop :=
  RowDecodes 0xF0FF 0xE09E (fun w => .skp (xField w))
    (fun w => ⟨.skipKey, .register (xField w), .unused, .unused⟩) ∧
  RowDecodes 0xF0FF 0xE0A1 (fun w => .sknp (xField w))
    (fun w => ⟨.skipNKey, .register (xField w), .unused, .unused⟩) ∧
  ∀ (x : RegIx) (s : State),
    ((s.getV x).toNat < 16 →
      (∃ t, exec (.skp x) s = .next t ∧
        t.pc = (if s.input.keys.getLsbD (s.getV x).toNat = true then s.pc + 2 else s.pc) ∧
        ReportsOk s t ∧ KeepsAllBut [.pc, .report] s t) ∧
      (∃ t, exec (.sknp x) s = .next t ∧
        t.pc = (if s.input.keys.getLsbD (s.getV x).toNat = false then s.pc + 2 else s.pc) ∧
        ReportsOk s t ∧ KeepsAllBut [.pc, .report] s t)) ∧
    (16 ≤ (s.getV x).toNat →
      (∃ t, exec (.skp x) s = .next t ∧ RaisesGuestError .keyIndexRange (s.getV x).toNat s t) ∧
      (∃ t, exec (.sknp x) s = .next t ∧ RaisesGuestError .keyIndexRange (s.getV x).toNat s t))

/-- R120 `LD Vx, K`: the first attempt and every attempt without a new press wait at the same word; the lowest
key that went down since the last attempt completes the wait. -/
def Obligations.WaitKeyCompletesOnANewPress : Prop :=
  RowDecodes 0xF0FF 0xF00A (fun w => .ldVxK (xField w))
    (fun w => ⟨.waitKey, .register (xField w), .unused, .unused⟩) ∧
  ∀ (x : RegIx) (s : State),
    (s.wkActive = false ∨
        (∀ k, k < 16 → ¬ (s.input.keys.getLsbD k = true ∧ s.wkPrev.getLsbD k = false)) →
      ∃ t, exec (.ldVxK x) s = .next t ∧ t.wkActive = true ∧ t.wkPrev = s.input.keys ∧ t.pc = s.pc - 2 ∧
        t.report = some (s.reportOf .waiting .noCause none) ∧ KeepsAllBut [.waitLatch, .pc, .report] s t) ∧
    (∀ k : RegIx, s.wkActive = true → s.input.keys.getLsbD k.val = true → s.wkPrev.getLsbD k.val = false →
        (∀ j : RegIx, j < k → ¬ (s.input.keys.getLsbD j.val = true ∧ s.wkPrev.getLsbD j.val = false)) →
      ∃ t, exec (.ldVxK x) s = .next t ∧ (t.getV x).toNat = k.val ∧
        (∀ r, r ≠ x → t.getV r = s.getV r) ∧ t.wkActive = false ∧ t.wkPrev = s.wkPrev ∧
        ReportsOk s t ∧ KeepsAllBut [.regs, .waitLatch, .report] s t)

/-! ## The step -/

/-- R69, R71: when the word at pc decodes to i, the step is the meaning of i at the advanced state: the inputs
taken, the tick applied, pc advanced by 2, the word latched, and nothing else changed. -/
def Obligations.StepRunsTheDecodedInstruction : Prop :=
  ∀ (s : State) (w : Word) (i : Instr), s.cfg.legal = true → s.halted = false →
    s.fetchWord = some w → decode w = .ok i →
    ∃ a : State, step s = exec i a ∧
      a.pc = s.pc + 2 ∧ a.fetched = some ⟨s.pc, w⟩ ∧
      a.dt = tickDown s.nextInput.tick s.dt ∧ a.st = tickDown s.nextInput.tick s.st ∧
      a.input = s.nextInput ∧ a.pending = s.pending.tail ∧
      KeepsAllBut [.pc, .fetched, .delayTimer, .soundTimer, .inputs] s a

/-- R130: the tick of a step takes one from each timer that is not 0, whatever the word does not write; without
a tick, and while halted, the timers stay. -/
def Obligations.TickCountsDownAndStopsAtZero : Prop :=
  ∀ (s t : State), step s = .next t →
    (s.halted = true → t.dt = s.dt ∧ t.st = s.st) ∧
    (s.halted = false → (∀ w x, s.fetchWord = some w → decode w ≠ .ok (.ldDtVx x)) →
      t.dt.toNat = s.dt.toNat - (if s.nextInput.tick then 1 else 0)) ∧
    (s.halted = false → (∀ w x, s.fetchWord = some w → decode w ≠ .ok (.ldStVx x)) →
      t.st.toNat = s.st.toNat - (if s.nextInput.tick then 1 else 0))

/-- R64, R123: a decode-miss is a no-op with a diagnostic past which pc advances, or it halts, as `MISS_POLICY`
says. -/
def Obligations.StepOfAMissFollowsThePolicy : Prop :=
  ∀ (s : State) (w : Word), s.cfg.legal = true → s.halted = false → s.fetchWord = some w → IsMissWord w →
    ∃ t, step s = .next t ∧ t.pc = s.pc + 2 ∧
      t.report = some ⟨.decodeMiss, .decodeMiss, some s.pc, some w, some w.toNat⟩ ∧
      (s.cfg.missPolicy = .skip → t.halted = false ∧ t.haltCause = s.haltCause) ∧
      (s.cfg.missPolicy = .halt → t.halted = true ∧ t.haltCause = .decodeMiss) ∧
      KeepsAllBut [.pc, .delayTimer, .soundTimer, .halting, .inputs, .fetched, .report] s t

/-- R37, R123: a fetch with pc + 1 at or beyond `MEM_SIZE` halts with FETCH_BOUNDS under either policy, after
the tick, and pc is not advanced. -/
def Obligations.FetchBeyondMemoryHalts : Prop :=
  ∀ s : State, s.cfg.legal = true → s.halted = false → s.cfg.memSize ≤ s.pc.toNat + 1 →
    ∃ t, step s = .next t ∧
      t.report = some ⟨.guestError, .fetchBounds, some s.pc, none, some s.pc.toNat⟩ ∧
      t.halted = true ∧ t.haltCause = .fetchBounds ∧ Cause.code t.haltCause = 6 ∧
      t.dt = tickDown s.nextInput.tick s.dt ∧ t.st = tickDown s.nextInput.tick s.st ∧
      KeepsAllBut [.delayTimer, .soundTimer, .halting, .inputs, .fetched, .report] s t

/-- R22, R123, R126: once halted, every number of further steps reports `Halted` with the stored cause and
changes nothing of the block. -/
def Obligations.HaltedStateNeverChanges : Prop :=
  ∀ (n : Nat) (s : State), s.cfg.legal = true → s.halted = true →
    ∃ t, Host.Core.run Sys2Proof.core (n + 1) s = .next t ∧
      t.report = some ⟨.halted, s.haltCause, none, none, none⟩ ∧
      KeepsAllBut [.inputs, .fetched, .report] s t

/-- R121, R128, R76: under a legal configuration every step answers a next state with one outcome, of a kind and
cause R121 and R122 pair, never `TableWiring`; `Halted` exactly when the state was halted. -/
def Obligations.EveryStepReportsOneOutcome : Prop :=
  ∀ s : State, s.cfg.legal = true →
    ∃ t r, step s = .next t ∧ t.report = some r ∧ r.legal = true ∧ (r.kind = .halted ↔ s.halted = true)

/-- 93_implementation_defined.md U13: a step is refused exactly under a configuration outside the legal values. -/
def Obligations.OnlyIllegalConfigurationsAreRefused : Prop :=
  ∀ s : State, (s.cfg.legal = false ↔ step s = .refused .illegalConfig) ∧
    (∀ q, step s = .refused q → q = .illegalConfig)

/-- R75, R58, R59: the step by instruction and the spec's own step, which dispatches over the 26 operations with
the operands the table-driven decoder extracts, are the same machine. -/
def Obligations.TableDrivenExecutionAgrees : Prop :=
  ∀ (w : Word) (s : State),
    executeWord w s =
      (match decode w with
       | .ok i => exec i s
       | .error _ => commit s (.raise (.decodeMiss w)))

/-- R142: a self-jump at its own address ends a run; pc, the fetched word and everything but the timers stay, so
every later step repeats it. -/
def Obligations.SelfJumpRepeatsForever : Prop :=
  ∀ (s : State) (w : Word), s.cfg.legal = true → s.halted = false → s.fetchWord = some w →
    s.pc.toNat < 0x1000 → w.toNat = 0x1000 + s.pc.toNat →
    ∃ t, step s = .next t ∧ t.endsRun = true ∧ t.fetchWord = some w ∧
      t.report = some ⟨.ok, .noCause, some s.pc, some w, none⟩ ∧
      KeepsAllBut [.delayTimer, .soundTimer, .inputs, .fetched, .report] s t

/-! ## Whole-machine rules -/

/-- R124: an error is precise. Beyond the report and the halting fields, the state after the step is the
advanced state. -/
def Obligations.ErrorsArePrecise : Prop :=
  ∀ (s t : State) (r : Report), step s = .next t → t.report = some r →
    r.kind ≠ .ok → r.kind ≠ .waiting → r.kind ≠ .halted →
    KeepsAllBut [.pc, .delayTimer, .soundTimer, .halting, .inputs, .fetched, .report] s t ∧
    t.pc = (if r.cause = .fetchBounds then s.pc else s.pc + 2) ∧
    t.dt = tickDown s.nextInput.tick s.dt ∧ t.st = tickDown s.nextInput.tick s.st

/-- R18, R20: no instruction writes a register but those listed. -/
def Obligations.OnlyListedInstructionsWriteRegisters : Prop :=
  ∀ (i : Instr) (s t : State) (r : RegIx), exec i s = .next t → mayWriteReg i r = false → t.getV r = s.getV r

/-- R19, R21-R25, R29, R35, R131: no instruction writes a part of the state but those listed. -/
def Obligations.OnlyListedInstructionsWriteEachPart : Prop :=
  ∀ (i : Instr) (s t : State) (p : Part), exec i s = .next t → mayWritePart s.cfg i p = false → Unchanged p s t

/-- R134, R8: `DEBUG` affects nothing. -/
def Obligations.DebugAffectsNothing : Prop :=
  ∀ (b : Bool) (s : State), step (s.withDebug b) = mapNext (State.withDebug b) (step s)

/-- R28, R127, R10: the keys affect only SKP, SKNP and LD Vx, K, and the draw affects only RND. -/
def Obligations.InputsAffectOnlyTheirReaders : Prop :=
  (∀ (i : Instr) (k : KeySet) (s : State), readsKeys i = false →
    exec i (s.withKeys k) = mapNext (State.withKeys k) (exec i s)) ∧
  (∀ (i : Instr) (r : BitVec 32) (s : State), readsRnd i = false →
    exec i (s.withRnd r) = mapNext (State.withRnd r) (exec i s))

/-- R24, R97: no instruction reads `ST`; LD ST, Vx alone writes it, whatever it held. -/
def Obligations.SoundTimerIsReadByNothing : Prop :=
  (∀ (i : Instr) (v : Nat) (s : State), (∀ x, i ≠ .ldStVx x) →
    exec i (s.setSt v) = mapNext (fun t => t.setSt v) (exec i s)) ∧
  (∀ (x : RegIx) (v : Nat) (s : State), exec (.ldStVx x) (s.setSt v) = exec (.ldStVx x) s)

/-! ## Creation and the invariant -/

/-- R31: every piece of state at creation, under any configuration, and the default entry point. -/
def Obligations.CreationValues : Prop :=
  (∀ c : Config,
    (∀ k, k < c.fontTable.length → (State.create c).readMem (c.fontBase + k) = c.fontTable.getD k 0) ∧
    (∀ a, a < c.fontBase ∨ c.fontBase + c.fontTable.length ≤ a → (State.create c).readMem a = 0) ∧
    (∀ r, (State.create c).getV r = 0) ∧ (State.create c).i = 0 ∧ (State.create c).pc = c.loadOffset ∧
    (State.create c).dt = 0 ∧ (State.create c).st = 0 ∧ (State.create c).stack = [] ∧
    (∀ y x, FrameBuffer.pixel (State.create c).fb y x = false) ∧
    (State.create c).wkActive = false ∧ (State.create c).wkPrev = 0 ∧
    (State.create c).halted = false ∧ Cause.code (State.create c).haltCause = 0) ∧
  State.reset = State.create Config.default ∧ State.reset.pc = 0x200 ∧ State.reset.cfg.memSize = 0x2000

/-- R137: an image that fits stands in memory from `LOAD_OFFSET` on and everything else is as at creation; one
that does not fit is refused. -/
def Obligations.LoadedImageStandsInMemory : Prop :=
  ∀ (c : Config) (image : List Byte), c.legal = true →
    (c.loadOffset.toNat + image.length ≤ c.memSize →
      ∃ t, (State.create c).loadImage image = some t ∧ Inv t ∧
        (∀ k, k < image.length → t.readMem (c.loadOffset.toNat + k) = image.getD k 0) ∧
        (∀ a, a < c.loadOffset.toNat ∨ c.loadOffset.toNat + image.length ≤ a →
          t.readMem a = (State.create c).readMem a) ∧
        KeepsAllBut [.memory] (State.create c) t) ∧
    (c.memSize < c.loadOffset.toNat + image.length → (State.create c).loadImage image = none)

/-- The invariant holds at reset, and at creation under every legal configuration. -/
def Obligations.InvariantHoldsAtCreation : Prop :=
  Inv State.reset ∧ ∀ c : Config, c.legal = true → Inv (State.create c)

/-- The invariant is kept by every step: the configuration stays legal, memory stays canonical and inside
`MEM_SIZE`, the stack within `STACK_DEPTH`, `halt_cause` is 0 exactly while running, and a WaitKey in progress
stays at its own FX0A word (R25, R22, R29, R120). -/
def Obligations.InvariantIsKeptByEveryStep : Prop :=
  ∀ s t : State, Inv s → step s = .next t → Inv t
end

