-- ==== Sys2Proof/Laws/Decode.lean ====
section
/-! SUPPORT. The decoder: fields of an encoded word, masks as nibble tests, raw values as fields, and that the
first accepting row is found because rows whose fixed nibbles conflict accept no common word. -/

namespace Sys2Proof

/-! ## Fields of the word formats -/

theorem toNat_wordXYN (op : Nibble) (x y : RegIx) (n : Nibble) :
    (wordXYN op x y n).toNat = op.toNat * 4096 + x.val * 256 + y.val * 16 + n.toNat := by
  simp only [wordXYN, regNibble, BitVec.toNat_append, BitVec.toNat_ofFin]
  rw [← Nat.shiftLeft_add_eq_or_of_lt (by omega), ← Nat.shiftLeft_add_eq_or_of_lt (by omega),
    ← Nat.shiftLeft_add_eq_or_of_lt (by omega)]
  simp only [Nat.shiftLeft_eq]
  omega

theorem toNat_wordXKk (op : Nibble) (x : RegIx) (kk : Byte) :
    (wordXKk op x kk).toNat = op.toNat * 4096 + x.val * 256 + kk.toNat := by
  simp only [wordXKk, regNibble, BitVec.toNat_append, BitVec.toNat_ofFin]
  rw [← Nat.shiftLeft_add_eq_or_of_lt (by omega), ← Nat.shiftLeft_add_eq_or_of_lt (by omega)]
  simp only [Nat.shiftLeft_eq]
  omega

theorem toNat_wordNnn (op : Nibble) (nnn : BitVec 12) :
    (wordNnn op nnn).toNat = op.toNat * 4096 + nnn.toNat := by
  simp only [wordNnn, BitVec.toNat_append]
  rw [← Nat.shiftLeft_add_eq_or_of_lt (by omega)]
  simp only [Nat.shiftLeft_eq]

theorem toNat_nibble (w : Word) (i : Nat) : (nibble w i).toNat = w.toNat / 2 ^ (4 * i) % 16 := by
  simp [nibble, BitVec.extractLsb'_toNat, Nat.shiftRight_eq_div_pow]

theorem toNat_kkField (w : Word) : (kkField w).toNat = w.toNat % 256 := by
  simp [kkField, BitVec.extractLsb'_toNat]

theorem toNat_nnnField (w : Word) : (nnnField w).toNat = w.toNat % 4096 := by
  simp [nnnField, BitVec.extractLsb'_toNat]

theorem val_xField (w : Word) : (xField w).val = w.toNat / 256 % 16 := toNat_nibble w 2

theorem val_yField (w : Word) : (yField w).val = w.toNat / 16 % 16 := toNat_nibble w 1

/-- A word is its four nibbles (30_encoding.md R49). -/
theorem eq_wordXYN_fields (w : Word) : w = wordXYN (nibble w 3) (xField w) (yField w) (nField w) := by
  apply BitVec.eq_of_toNat_eq
  rw [toNat_wordXYN, val_xField, val_yField, nField, toNat_nibble, toNat_nibble]
  have := w.isLt
  omega

theorem eq_wordXKk_fields (w : Word) : w = wordXKk (nibble w 3) (xField w) (kkField w) := by
  apply BitVec.eq_of_toNat_eq
  rw [toNat_wordXKk, val_xField, toNat_kkField, toNat_nibble]
  have := w.isLt
  omega

theorem eq_wordNnn_fields (w : Word) : w = wordNnn (nibble w 3) (nnnField w) := by
  apply BitVec.eq_of_toNat_eq
  rw [toNat_wordNnn, toNat_nnnField, toNat_nibble]
  have := w.isLt
  omega

section
variable (op n : Nibble) (x y : RegIx) (kk : Byte) (nnn : BitVec 12)

@[simp] theorem nibble3_wordXYN : nibble (wordXYN op x y n) 3 = op := by
  apply BitVec.eq_of_toNat_eq; rw [toNat_nibble, toNat_wordXYN]; omega

@[simp] theorem xField_wordXYN : xField (wordXYN op x y n) = x := by
  apply Fin.ext; rw [val_xField, toNat_wordXYN]; omega

@[simp] theorem yField_wordXYN : yField (wordXYN op x y n) = y := by
  apply Fin.ext; rw [val_yField, toNat_wordXYN]; omega

@[simp] theorem nField_wordXYN : nField (wordXYN op x y n) = n := by
  apply BitVec.eq_of_toNat_eq; rw [nField, toNat_nibble, toNat_wordXYN]; omega

@[simp] theorem nibble3_wordXKk : nibble (wordXKk op x kk) 3 = op := by
  apply BitVec.eq_of_toNat_eq; rw [toNat_nibble, toNat_wordXKk]; omega

@[simp] theorem xField_wordXKk : xField (wordXKk op x kk) = x := by
  apply Fin.ext; rw [val_xField, toNat_wordXKk]; omega

@[simp] theorem kkField_wordXKk : kkField (wordXKk op x kk) = kk := by
  apply BitVec.eq_of_toNat_eq; rw [toNat_kkField, toNat_wordXKk]; omega

@[simp] theorem nibble3_wordNnn : nibble (wordNnn op nnn) 3 = op := by
  apply BitVec.eq_of_toNat_eq; rw [toNat_nibble, toNat_wordNnn]; omega

@[simp] theorem nnnField_wordNnn : nnnField (wordNnn op nnn) = nnn := by
  apply BitVec.eq_of_toNat_eq; rw [toNat_nnnField, toNat_wordNnn]; omega

end

/-! ## Masks (R52, R53) -/

theorem and_F000 (w : Word) : w &&& 0xF000#16 = nibble w 3 ++ 0#12 := by
  ext i hi
  rw [BitVec.getElem_and, BitVec.getElem_append]
  interval_cases i <;> simp [nibble]

theorem and_F00F (w : Word) : w &&& 0xF00F#16 = nibble w 3 ++ 0#8 ++ nField w := by
  apply BitVec.eq_of_getLsbD_eq
  intro i hi
  simp only [BitVec.getLsbD_and, BitVec.getLsbD_append, nibble, nField, BitVec.getLsbD_extractLsb']
  interval_cases i <;> simp

theorem and_F0FF (w : Word) : w &&& 0xF0FF#16 = nibble w 3 ++ 0#4 ++ kkField w := by
  apply BitVec.eq_of_getLsbD_eq
  intro i hi
  simp only [BitVec.getLsbD_and, BitVec.getLsbD_append, nibble, kkField, BitVec.getLsbD_extractLsb']
  interval_cases i <;> simp

theorem and_FFFF (w : Word) : w &&& 0xFFFF#16 = w := by
  ext i hi
  interval_cases i <;> simp

/-! ## Raw values (R55, R57) -/

theorem rawReg_nibble2 (w : Word) : rawReg ((0 <<< 4) ||| (nibble w 2).toNat) = xField w := by
  apply Fin.ext; simp [rawReg, val_xField, toNat_nibble]

theorem rawReg_nibble1 (w : Word) : rawReg ((0 <<< 4) ||| (nibble w 1).toNat) = yField w := by
  apply Fin.ext; simp [rawReg, val_yField, toNat_nibble]

theorem raw_n (w : Word) : BitVec.ofNat 4 ((0 <<< 4) ||| (nibble w 0).toNat) = nField w := by
  simp [nField]

theorem raw_kk (w : Word) :
    BitVec.ofNat 8 (((0 <<< 4) ||| (nibble w 1).toNat) <<< 4 ||| (nibble w 0).toNat) = kkField w := by
  apply BitVec.eq_of_toNat_eq
  rw [← Nat.shiftLeft_add_eq_or_of_lt (by omega)]
  simp [toNat_kkField, toNat_nibble, Nat.shiftLeft_eq]
  omega

theorem raw_nnn (w : Word) :
    BitVec.ofNat 12 ((((0 <<< 4) ||| (nibble w 2).toNat) <<< 4 ||| (nibble w 1).toNat) <<< 4 |||
      (nibble w 0).toNat) = nnnField w := by
  apply BitVec.eq_of_toNat_eq
  rw [← Nat.shiftLeft_add_eq_or_of_lt (by omega), ← Nat.shiftLeft_add_eq_or_of_lt (by omega)]
  simp [toNat_nnnField, toNat_nibble, Nat.shiftLeft_eq]
  omega

/-! ## The first accepting row (R54, R61) -/

/-- The fixed nibbles of two rows conflict somewhere both fix. -/
def rowsConflict (d e : InstrDef) : Bool :=
  (codingValue d.coding &&& codingMask d.coding) &&& codingMask e.coding !=
    (codingValue e.coding &&& codingMask e.coding) &&& codingMask d.coding

/-- Conflicting rows accept no common word. -/
theorem not_accepts_of_conflict {d e : InstrDef} {w : Word} (hc : rowsConflict d e = true)
    (h : e.accepts w = true) : d.accepts w = false := by
  by_contra hd
  have hd : d.accepts w = true := by simpa using hd
  simp only [InstrDef.accepts, beq_iff_eq, rowsConflict, bne_iff_ne] at *
  apply hc
  rw [← h, ← hd]
  ac_rfl

/-- The row of a given index (0 is row 1). -/
def row (k : Fin 35) : InstrDef := instrTable[k]'(k.isLt)

/-- Every two rows but row 3 with rows 1 and 2 conflict (R61). -/
theorem rows_conflict : ∀ j k : Fin 35, j < k → k ≠ 2 → rowsConflict (row j) (row k) = true := by
  decide

/-- A row an accepting word is decoded by, when no earlier row accepts the word. -/
theorem findDef_row {w : Word} (k : Fin 35) (h : (row k).accepts w = true)
    (hno : ∀ j : Fin 35, j < k → (row j).accepts w = false) : findDef w = some (row k) := by
  rw [findDef, List.find?_eq_some_iff_getElem]
  refine ⟨h, k.val, k.isLt, rfl, fun j hj => ?_⟩
  have hj' : (row ⟨j, hj.trans k.isLt⟩).accepts w = false := hno _ hj
  change (!(row ⟨j, hj.trans k.isLt⟩).accepts w) = true
  rw [hj']
  rfl

/-- Every row but row 3 is the one its words select. -/
theorem findDef_of_accepts {w : Word} (k : Fin 35) (hk : k ≠ 2) (h : (row k).accepts w = true) :
    findDef w = some (row k) :=
  findDef_row k h fun j hj => not_accepts_of_conflict (rows_conflict j k hj hk) h

/-- What a row's words decode to, for every row but row 3. -/
theorem decode_of_accepts {w : Word} (k : Fin 35) (hk : k ≠ 2) (h : (row k).accepts w = true) :
    decode w = .ok ((row k).build (extractRaw (row k).coding w)) ∧
      decodeOperands w = some ((row k).decoded w) := by
  simp [decode, decodeOperands, findDef_of_accepts k hk h]

end Sys2Proof
end

