-- ==== Sys2Proof/Laws/State.lean ====
section
/-! SUPPORT. One lemma per field per update of the state, each true by rfl, so that no later proof unfolds a
record update. -/

namespace Sys2Proof.Machine

/-! ## `setV` -/

@[simp] theorem State.setV_cfg (s : State) (r : RegIx) (b : Byte) : (s.setV r b).cfg = s.cfg := rfl
@[simp] theorem State.setV_v (s : State) (r : RegIx) (b : Byte) : (s.setV r b).v = s.v.set r b := rfl
@[simp] theorem State.setV_i (s : State) (r : RegIx) (b : Byte) : (s.setV r b).i = s.i := rfl
@[simp] theorem State.setV_pc (s : State) (r : RegIx) (b : Byte) : (s.setV r b).pc = s.pc := rfl
@[simp] theorem State.setV_dt (s : State) (r : RegIx) (b : Byte) : (s.setV r b).dt = s.dt := rfl
@[simp] theorem State.setV_st (s : State) (r : RegIx) (b : Byte) : (s.setV r b).st = s.st := rfl
@[simp] theorem State.setV_stack (s : State) (r : RegIx) (b : Byte) : (s.setV r b).stack = s.stack := rfl
@[simp] theorem State.setV_mem (s : State) (r : RegIx) (b : Byte) : (s.setV r b).mem = s.mem := rfl
@[simp] theorem State.setV_fb (s : State) (r : RegIx) (b : Byte) : (s.setV r b).fb = s.fb := rfl
@[simp] theorem State.setV_wkActive (s : State) (r : RegIx) (b : Byte) :
    (s.setV r b).wkActive = s.wkActive := rfl
@[simp] theorem State.setV_wkPrev (s : State) (r : RegIx) (b : Byte) : (s.setV r b).wkPrev = s.wkPrev := rfl
@[simp] theorem State.setV_halted (s : State) (r : RegIx) (b : Byte) : (s.setV r b).halted = s.halted := rfl
@[simp] theorem State.setV_haltCause (s : State) (r : RegIx) (b : Byte) :
    (s.setV r b).haltCause = s.haltCause := rfl
@[simp] theorem State.setV_input (s : State) (r : RegIx) (b : Byte) : (s.setV r b).input = s.input := rfl
@[simp] theorem State.setV_pending (s : State) (r : RegIx) (b : Byte) :
    (s.setV r b).pending = s.pending := rfl
@[simp] theorem State.setV_stepNo (s : State) (r : RegIx) (b : Byte) : (s.setV r b).stepNo = s.stepNo := rfl
@[simp] theorem State.setV_fetched (s : State) (r : RegIx) (b : Byte) :
    (s.setV r b).fetched = s.fetched := rfl
@[simp] theorem State.setV_report (s : State) (r : RegIx) (b : Byte) : (s.setV r b).report = s.report := rfl

/-! ## `setI` -/

@[simp] theorem State.setI_cfg (s : State) (n : Nat) : (s.setI n).cfg = s.cfg := rfl
@[simp] theorem State.setI_v (s : State) (n : Nat) : (s.setI n).v = s.v := rfl
@[simp] theorem State.setI_i (s : State) (n : Nat) : (s.setI n).i = BitVec.ofNat 16 n := rfl
@[simp] theorem State.setI_pc (s : State) (n : Nat) : (s.setI n).pc = s.pc := rfl
@[simp] theorem State.setI_dt (s : State) (n : Nat) : (s.setI n).dt = s.dt := rfl
@[simp] theorem State.setI_st (s : State) (n : Nat) : (s.setI n).st = s.st := rfl
@[simp] theorem State.setI_stack (s : State) (n : Nat) : (s.setI n).stack = s.stack := rfl
@[simp] theorem State.setI_mem (s : State) (n : Nat) : (s.setI n).mem = s.mem := rfl
@[simp] theorem State.setI_fb (s : State) (n : Nat) : (s.setI n).fb = s.fb := rfl
@[simp] theorem State.setI_wkActive (s : State) (n : Nat) : (s.setI n).wkActive = s.wkActive := rfl
@[simp] theorem State.setI_wkPrev (s : State) (n : Nat) : (s.setI n).wkPrev = s.wkPrev := rfl
@[simp] theorem State.setI_halted (s : State) (n : Nat) : (s.setI n).halted = s.halted := rfl
@[simp] theorem State.setI_haltCause (s : State) (n : Nat) : (s.setI n).haltCause = s.haltCause := rfl
@[simp] theorem State.setI_input (s : State) (n : Nat) : (s.setI n).input = s.input := rfl
@[simp] theorem State.setI_pending (s : State) (n : Nat) : (s.setI n).pending = s.pending := rfl
@[simp] theorem State.setI_stepNo (s : State) (n : Nat) : (s.setI n).stepNo = s.stepNo := rfl
@[simp] theorem State.setI_fetched (s : State) (n : Nat) : (s.setI n).fetched = s.fetched := rfl
@[simp] theorem State.setI_report (s : State) (n : Nat) : (s.setI n).report = s.report := rfl

/-! ## `setPc` -/

@[simp] theorem State.setPc_cfg (s : State) (n : Nat) : (s.setPc n).cfg = s.cfg := rfl
@[simp] theorem State.setPc_v (s : State) (n : Nat) : (s.setPc n).v = s.v := rfl
@[simp] theorem State.setPc_i (s : State) (n : Nat) : (s.setPc n).i = s.i := rfl
@[simp] theorem State.setPc_pc (s : State) (n : Nat) : (s.setPc n).pc = BitVec.ofNat 16 n := rfl
@[simp] theorem State.setPc_dt (s : State) (n : Nat) : (s.setPc n).dt = s.dt := rfl
@[simp] theorem State.setPc_st (s : State) (n : Nat) : (s.setPc n).st = s.st := rfl
@[simp] theorem State.setPc_stack (s : State) (n : Nat) : (s.setPc n).stack = s.stack := rfl
@[simp] theorem State.setPc_mem (s : State) (n : Nat) : (s.setPc n).mem = s.mem := rfl
@[simp] theorem State.setPc_fb (s : State) (n : Nat) : (s.setPc n).fb = s.fb := rfl
@[simp] theorem State.setPc_wkActive (s : State) (n : Nat) : (s.setPc n).wkActive = s.wkActive := rfl
@[simp] theorem State.setPc_wkPrev (s : State) (n : Nat) : (s.setPc n).wkPrev = s.wkPrev := rfl
@[simp] theorem State.setPc_halted (s : State) (n : Nat) : (s.setPc n).halted = s.halted := rfl
@[simp] theorem State.setPc_haltCause (s : State) (n : Nat) : (s.setPc n).haltCause = s.haltCause := rfl
@[simp] theorem State.setPc_input (s : State) (n : Nat) : (s.setPc n).input = s.input := rfl
@[simp] theorem State.setPc_pending (s : State) (n : Nat) : (s.setPc n).pending = s.pending := rfl
@[simp] theorem State.setPc_stepNo (s : State) (n : Nat) : (s.setPc n).stepNo = s.stepNo := rfl
@[simp] theorem State.setPc_fetched (s : State) (n : Nat) : (s.setPc n).fetched = s.fetched := rfl
@[simp] theorem State.setPc_report (s : State) (n : Nat) : (s.setPc n).report = s.report := rfl

/-! ## `setDt` -/

@[simp] theorem State.setDt_cfg (s : State) (n : Nat) : (s.setDt n).cfg = s.cfg := rfl
@[simp] theorem State.setDt_v (s : State) (n : Nat) : (s.setDt n).v = s.v := rfl
@[simp] theorem State.setDt_i (s : State) (n : Nat) : (s.setDt n).i = s.i := rfl
@[simp] theorem State.setDt_pc (s : State) (n : Nat) : (s.setDt n).pc = s.pc := rfl
@[simp] theorem State.setDt_dt (s : State) (n : Nat) : (s.setDt n).dt = BitVec.ofNat 8 n := rfl
@[simp] theorem State.setDt_st (s : State) (n : Nat) : (s.setDt n).st = s.st := rfl
@[simp] theorem State.setDt_stack (s : State) (n : Nat) : (s.setDt n).stack = s.stack := rfl
@[simp] theorem State.setDt_mem (s : State) (n : Nat) : (s.setDt n).mem = s.mem := rfl
@[simp] theorem State.setDt_fb (s : State) (n : Nat) : (s.setDt n).fb = s.fb := rfl
@[simp] theorem State.setDt_wkActive (s : State) (n : Nat) : (s.setDt n).wkActive = s.wkActive := rfl
@[simp] theorem State.setDt_wkPrev (s : State) (n : Nat) : (s.setDt n).wkPrev = s.wkPrev := rfl
@[simp] theorem State.setDt_halted (s : State) (n : Nat) : (s.setDt n).halted = s.halted := rfl
@[simp] theorem State.setDt_haltCause (s : State) (n : Nat) : (s.setDt n).haltCause = s.haltCause := rfl
@[simp] theorem State.setDt_input (s : State) (n : Nat) : (s.setDt n).input = s.input := rfl
@[simp] theorem State.setDt_pending (s : State) (n : Nat) : (s.setDt n).pending = s.pending := rfl
@[simp] theorem State.setDt_stepNo (s : State) (n : Nat) : (s.setDt n).stepNo = s.stepNo := rfl
@[simp] theorem State.setDt_fetched (s : State) (n : Nat) : (s.setDt n).fetched = s.fetched := rfl
@[simp] theorem State.setDt_report (s : State) (n : Nat) : (s.setDt n).report = s.report := rfl

/-! ## `setSt` -/

@[simp] theorem State.setSt_cfg (s : State) (n : Nat) : (s.setSt n).cfg = s.cfg := rfl
@[simp] theorem State.setSt_v (s : State) (n : Nat) : (s.setSt n).v = s.v := rfl
@[simp] theorem State.setSt_i (s : State) (n : Nat) : (s.setSt n).i = s.i := rfl
@[simp] theorem State.setSt_pc (s : State) (n : Nat) : (s.setSt n).pc = s.pc := rfl
@[simp] theorem State.setSt_dt (s : State) (n : Nat) : (s.setSt n).dt = s.dt := rfl
@[simp] theorem State.setSt_st (s : State) (n : Nat) : (s.setSt n).st = BitVec.ofNat 8 n := rfl
@[simp] theorem State.setSt_stack (s : State) (n : Nat) : (s.setSt n).stack = s.stack := rfl
@[simp] theorem State.setSt_mem (s : State) (n : Nat) : (s.setSt n).mem = s.mem := rfl
@[simp] theorem State.setSt_fb (s : State) (n : Nat) : (s.setSt n).fb = s.fb := rfl
@[simp] theorem State.setSt_wkActive (s : State) (n : Nat) : (s.setSt n).wkActive = s.wkActive := rfl
@[simp] theorem State.setSt_wkPrev (s : State) (n : Nat) : (s.setSt n).wkPrev = s.wkPrev := rfl
@[simp] theorem State.setSt_halted (s : State) (n : Nat) : (s.setSt n).halted = s.halted := rfl
@[simp] theorem State.setSt_haltCause (s : State) (n : Nat) : (s.setSt n).haltCause = s.haltCause := rfl
@[simp] theorem State.setSt_input (s : State) (n : Nat) : (s.setSt n).input = s.input := rfl
@[simp] theorem State.setSt_pending (s : State) (n : Nat) : (s.setSt n).pending = s.pending := rfl
@[simp] theorem State.setSt_stepNo (s : State) (n : Nat) : (s.setSt n).stepNo = s.stepNo := rfl
@[simp] theorem State.setSt_fetched (s : State) (n : Nat) : (s.setSt n).fetched = s.fetched := rfl
@[simp] theorem State.setSt_report (s : State) (n : Nat) : (s.setSt n).report = s.report := rfl

/-! ## `writeMem` -/

@[simp] theorem State.writeMem_cfg (s : State) (a : Nat) (b : Byte) : (s.writeMem a b).cfg = s.cfg := rfl
@[simp] theorem State.writeMem_v (s : State) (a : Nat) (b : Byte) : (s.writeMem a b).v = s.v := rfl
@[simp] theorem State.writeMem_i (s : State) (a : Nat) (b : Byte) : (s.writeMem a b).i = s.i := rfl
@[simp] theorem State.writeMem_pc (s : State) (a : Nat) (b : Byte) : (s.writeMem a b).pc = s.pc := rfl
@[simp] theorem State.writeMem_dt (s : State) (a : Nat) (b : Byte) : (s.writeMem a b).dt = s.dt := rfl
@[simp] theorem State.writeMem_st (s : State) (a : Nat) (b : Byte) : (s.writeMem a b).st = s.st := rfl
@[simp] theorem State.writeMem_stack (s : State) (a : Nat) (b : Byte) :
    (s.writeMem a b).stack = s.stack := rfl
@[simp] theorem State.writeMem_mem (s : State) (a : Nat) (b : Byte) :
    (s.writeMem a b).mem = Memory.write s.cfg.creationByte s.mem a b := rfl
@[simp] theorem State.writeMem_fb (s : State) (a : Nat) (b : Byte) : (s.writeMem a b).fb = s.fb := rfl
@[simp] theorem State.writeMem_wkActive (s : State) (a : Nat) (b : Byte) :
    (s.writeMem a b).wkActive = s.wkActive := rfl
@[simp] theorem State.writeMem_wkPrev (s : State) (a : Nat) (b : Byte) :
    (s.writeMem a b).wkPrev = s.wkPrev := rfl
@[simp] theorem State.writeMem_halted (s : State) (a : Nat) (b : Byte) :
    (s.writeMem a b).halted = s.halted := rfl
@[simp] theorem State.writeMem_haltCause (s : State) (a : Nat) (b : Byte) :
    (s.writeMem a b).haltCause = s.haltCause := rfl
@[simp] theorem State.writeMem_input (s : State) (a : Nat) (b : Byte) :
    (s.writeMem a b).input = s.input := rfl
@[simp] theorem State.writeMem_pending (s : State) (a : Nat) (b : Byte) :
    (s.writeMem a b).pending = s.pending := rfl
@[simp] theorem State.writeMem_stepNo (s : State) (a : Nat) (b : Byte) :
    (s.writeMem a b).stepNo = s.stepNo := rfl
@[simp] theorem State.writeMem_fetched (s : State) (a : Nat) (b : Byte) :
    (s.writeMem a b).fetched = s.fetched := rfl
@[simp] theorem State.writeMem_report (s : State) (a : Nat) (b : Byte) :
    (s.writeMem a b).report = s.report := rfl

/-! ## `push` -/

@[simp] theorem State.push_cfg (s : State) (a : Word) : (s.push a).cfg = s.cfg := rfl
@[simp] theorem State.push_v (s : State) (a : Word) : (s.push a).v = s.v := rfl
@[simp] theorem State.push_i (s : State) (a : Word) : (s.push a).i = s.i := rfl
@[simp] theorem State.push_pc (s : State) (a : Word) : (s.push a).pc = s.pc := rfl
@[simp] theorem State.push_dt (s : State) (a : Word) : (s.push a).dt = s.dt := rfl
@[simp] theorem State.push_st (s : State) (a : Word) : (s.push a).st = s.st := rfl
@[simp] theorem State.push_stack (s : State) (a : Word) : (s.push a).stack = s.stack ++ [a] := rfl
@[simp] theorem State.push_mem (s : State) (a : Word) : (s.push a).mem = s.mem := rfl
@[simp] theorem State.push_fb (s : State) (a : Word) : (s.push a).fb = s.fb := rfl
@[simp] theorem State.push_wkActive (s : State) (a : Word) : (s.push a).wkActive = s.wkActive := rfl
@[simp] theorem State.push_wkPrev (s : State) (a : Word) : (s.push a).wkPrev = s.wkPrev := rfl
@[simp] theorem State.push_halted (s : State) (a : Word) : (s.push a).halted = s.halted := rfl
@[simp] theorem State.push_haltCause (s : State) (a : Word) : (s.push a).haltCause = s.haltCause := rfl
@[simp] theorem State.push_input (s : State) (a : Word) : (s.push a).input = s.input := rfl
@[simp] theorem State.push_pending (s : State) (a : Word) : (s.push a).pending = s.pending := rfl
@[simp] theorem State.push_stepNo (s : State) (a : Word) : (s.push a).stepNo = s.stepNo := rfl
@[simp] theorem State.push_fetched (s : State) (a : Word) : (s.push a).fetched = s.fetched := rfl
@[simp] theorem State.push_report (s : State) (a : Word) : (s.push a).report = s.report := rfl

/-! ## `latchInput` -/

@[simp] theorem State.latchInput_cfg (s : State) : (s.latchInput).cfg = s.cfg := rfl
@[simp] theorem State.latchInput_v (s : State) : (s.latchInput).v = s.v := rfl
@[simp] theorem State.latchInput_i (s : State) : (s.latchInput).i = s.i := rfl
@[simp] theorem State.latchInput_pc (s : State) : (s.latchInput).pc = s.pc := rfl
@[simp] theorem State.latchInput_dt (s : State) : (s.latchInput).dt = s.dt := rfl
@[simp] theorem State.latchInput_st (s : State) : (s.latchInput).st = s.st := rfl
@[simp] theorem State.latchInput_stack (s : State) : (s.latchInput).stack = s.stack := rfl
@[simp] theorem State.latchInput_mem (s : State) : (s.latchInput).mem = s.mem := rfl
@[simp] theorem State.latchInput_fb (s : State) : (s.latchInput).fb = s.fb := rfl
@[simp] theorem State.latchInput_wkActive (s : State) : (s.latchInput).wkActive = s.wkActive := rfl
@[simp] theorem State.latchInput_wkPrev (s : State) : (s.latchInput).wkPrev = s.wkPrev := rfl
@[simp] theorem State.latchInput_halted (s : State) : (s.latchInput).halted = s.halted := rfl
@[simp] theorem State.latchInput_haltCause (s : State) : (s.latchInput).haltCause = s.haltCause := rfl
@[simp] theorem State.latchInput_input (s : State) : (s.latchInput).input = s.nextInput := rfl
@[simp] theorem State.latchInput_pending (s : State) : (s.latchInput).pending = s.pending.tail := rfl
@[simp] theorem State.latchInput_stepNo (s : State) : (s.latchInput).stepNo = s.stepNo + 1 := rfl
@[simp] theorem State.latchInput_fetched (s : State) : (s.latchInput).fetched = none := rfl
@[simp] theorem State.latchInput_report (s : State) : (s.latchInput).report = s.report := rfl

/-! ## `applyTick` -/

@[simp] theorem State.applyTick_cfg (s : State) : (s.applyTick).cfg = s.cfg := rfl
@[simp] theorem State.applyTick_v (s : State) : (s.applyTick).v = s.v := rfl
@[simp] theorem State.applyTick_i (s : State) : (s.applyTick).i = s.i := rfl
@[simp] theorem State.applyTick_pc (s : State) : (s.applyTick).pc = s.pc := rfl
@[simp] theorem State.applyTick_dt (s : State) : (s.applyTick).dt = tickDown s.input.tick s.dt := rfl
@[simp] theorem State.applyTick_st (s : State) : (s.applyTick).st = tickDown s.input.tick s.st := rfl
@[simp] theorem State.applyTick_stack (s : State) : (s.applyTick).stack = s.stack := rfl
@[simp] theorem State.applyTick_mem (s : State) : (s.applyTick).mem = s.mem := rfl
@[simp] theorem State.applyTick_fb (s : State) : (s.applyTick).fb = s.fb := rfl
@[simp] theorem State.applyTick_wkActive (s : State) : (s.applyTick).wkActive = s.wkActive := rfl
@[simp] theorem State.applyTick_wkPrev (s : State) : (s.applyTick).wkPrev = s.wkPrev := rfl
@[simp] theorem State.applyTick_halted (s : State) : (s.applyTick).halted = s.halted := rfl
@[simp] theorem State.applyTick_haltCause (s : State) : (s.applyTick).haltCause = s.haltCause := rfl
@[simp] theorem State.applyTick_input (s : State) : (s.applyTick).input = s.input := rfl
@[simp] theorem State.applyTick_pending (s : State) : (s.applyTick).pending = s.pending := rfl
@[simp] theorem State.applyTick_stepNo (s : State) : (s.applyTick).stepNo = s.stepNo := rfl
@[simp] theorem State.applyTick_fetched (s : State) : (s.applyTick).fetched = s.fetched := rfl
@[simp] theorem State.applyTick_report (s : State) : (s.applyTick).report = s.report := rfl

/-! ## `advance` -/

@[simp] theorem State.advance_cfg (s : State) (w : Word) : (s.advance w).cfg = s.cfg := rfl
@[simp] theorem State.advance_v (s : State) (w : Word) : (s.advance w).v = s.v := rfl
@[simp] theorem State.advance_i (s : State) (w : Word) : (s.advance w).i = s.i := rfl
@[simp] theorem State.advance_pc (s : State) (w : Word) : (s.advance w).pc = s.pc + 2 := rfl
@[simp] theorem State.advance_dt (s : State) (w : Word) : (s.advance w).dt = s.dt := rfl
@[simp] theorem State.advance_st (s : State) (w : Word) : (s.advance w).st = s.st := rfl
@[simp] theorem State.advance_stack (s : State) (w : Word) : (s.advance w).stack = s.stack := rfl
@[simp] theorem State.advance_mem (s : State) (w : Word) : (s.advance w).mem = s.mem := rfl
@[simp] theorem State.advance_fb (s : State) (w : Word) : (s.advance w).fb = s.fb := rfl
@[simp] theorem State.advance_wkActive (s : State) (w : Word) : (s.advance w).wkActive = s.wkActive := rfl
@[simp] theorem State.advance_wkPrev (s : State) (w : Word) : (s.advance w).wkPrev = s.wkPrev := rfl
@[simp] theorem State.advance_halted (s : State) (w : Word) : (s.advance w).halted = s.halted := rfl
@[simp] theorem State.advance_haltCause (s : State) (w : Word) : (s.advance w).haltCause = s.haltCause := rfl
@[simp] theorem State.advance_input (s : State) (w : Word) : (s.advance w).input = s.input := rfl
@[simp] theorem State.advance_pending (s : State) (w : Word) : (s.advance w).pending = s.pending := rfl
@[simp] theorem State.advance_stepNo (s : State) (w : Word) : (s.advance w).stepNo = s.stepNo := rfl
@[simp] theorem State.advance_fetched (s : State) (w : Word) :
    (s.advance w).fetched = some { addr := s.pc, word := w } := rfl
@[simp] theorem State.advance_report (s : State) (w : Word) : (s.advance w).report = s.report := rfl

/-! ## `withReport` -/

@[simp] theorem State.withReport_cfg (s : State) (k : OutcomeKind) (c : Cause) (n : Option Nat) :
    (s.withReport k c n).cfg = s.cfg := rfl
@[simp] theorem State.withReport_v (s : State) (k : OutcomeKind) (c : Cause) (n : Option Nat) :
    (s.withReport k c n).v = s.v := rfl
@[simp] theorem State.withReport_i (s : State) (k : OutcomeKind) (c : Cause) (n : Option Nat) :
    (s.withReport k c n).i = s.i := rfl
@[simp] theorem State.withReport_pc (s : State) (k : OutcomeKind) (c : Cause) (n : Option Nat) :
    (s.withReport k c n).pc = s.pc := rfl
@[simp] theorem State.withReport_dt (s : State) (k : OutcomeKind) (c : Cause) (n : Option Nat) :
    (s.withReport k c n).dt = s.dt := rfl
@[simp] theorem State.withReport_st (s : State) (k : OutcomeKind) (c : Cause) (n : Option Nat) :
    (s.withReport k c n).st = s.st := rfl
@[simp] theorem State.withReport_stack (s : State) (k : OutcomeKind) (c : Cause) (n : Option Nat) :
    (s.withReport k c n).stack = s.stack := rfl
@[simp] theorem State.withReport_mem (s : State) (k : OutcomeKind) (c : Cause) (n : Option Nat) :
    (s.withReport k c n).mem = s.mem := rfl
@[simp] theorem State.withReport_fb (s : State) (k : OutcomeKind) (c : Cause) (n : Option Nat) :
    (s.withReport k c n).fb = s.fb := rfl
@[simp] theorem State.withReport_wkActive (s : State) (k : OutcomeKind) (c : Cause) (n : Option Nat) :
    (s.withReport k c n).wkActive = s.wkActive := rfl
@[simp] theorem State.withReport_wkPrev (s : State) (k : OutcomeKind) (c : Cause) (n : Option Nat) :
    (s.withReport k c n).wkPrev = s.wkPrev := rfl
@[simp] theorem State.withReport_halted (s : State) (k : OutcomeKind) (c : Cause) (n : Option Nat) :
    (s.withReport k c n).halted = s.halted := rfl
@[simp] theorem State.withReport_haltCause (s : State) (k : OutcomeKind) (c : Cause) (n : Option Nat) :
    (s.withReport k c n).haltCause = s.haltCause := rfl
@[simp] theorem State.withReport_input (s : State) (k : OutcomeKind) (c : Cause) (n : Option Nat) :
    (s.withReport k c n).input = s.input := rfl
@[simp] theorem State.withReport_pending (s : State) (k : OutcomeKind) (c : Cause) (n : Option Nat) :
    (s.withReport k c n).pending = s.pending := rfl
@[simp] theorem State.withReport_stepNo (s : State) (k : OutcomeKind) (c : Cause) (n : Option Nat) :
    (s.withReport k c n).stepNo = s.stepNo := rfl
@[simp] theorem State.withReport_fetched (s : State) (k : OutcomeKind) (c : Cause) (n : Option Nat) :
    (s.withReport k c n).fetched = s.fetched := rfl
@[simp] theorem State.withReport_report (s : State) (k : OutcomeKind) (c : Cause) (n : Option Nat) :
    (s.withReport k c n).report = some (s.reportOf k c n) := rfl

/-! ## `halt` -/

@[simp] theorem State.halt_cfg (s : State) (c : Cause) : (s.halt c).cfg = s.cfg := rfl
@[simp] theorem State.halt_v (s : State) (c : Cause) : (s.halt c).v = s.v := rfl
@[simp] theorem State.halt_i (s : State) (c : Cause) : (s.halt c).i = s.i := rfl
@[simp] theorem State.halt_pc (s : State) (c : Cause) : (s.halt c).pc = s.pc := rfl
@[simp] theorem State.halt_dt (s : State) (c : Cause) : (s.halt c).dt = s.dt := rfl
@[simp] theorem State.halt_st (s : State) (c : Cause) : (s.halt c).st = s.st := rfl
@[simp] theorem State.halt_stack (s : State) (c : Cause) : (s.halt c).stack = s.stack := rfl
@[simp] theorem State.halt_mem (s : State) (c : Cause) : (s.halt c).mem = s.mem := rfl
@[simp] theorem State.halt_fb (s : State) (c : Cause) : (s.halt c).fb = s.fb := rfl
@[simp] theorem State.halt_wkActive (s : State) (c : Cause) : (s.halt c).wkActive = s.wkActive := rfl
@[simp] theorem State.halt_wkPrev (s : State) (c : Cause) : (s.halt c).wkPrev = s.wkPrev := rfl
@[simp] theorem State.halt_halted (s : State) (c : Cause) : (s.halt c).halted = true := rfl
@[simp] theorem State.halt_haltCause (s : State) (c : Cause) : (s.halt c).haltCause = c := rfl
@[simp] theorem State.halt_input (s : State) (c : Cause) : (s.halt c).input = s.input := rfl
@[simp] theorem State.halt_pending (s : State) (c : Cause) : (s.halt c).pending = s.pending := rfl
@[simp] theorem State.halt_stepNo (s : State) (c : Cause) : (s.halt c).stepNo = s.stepNo := rfl
@[simp] theorem State.halt_fetched (s : State) (c : Cause) : (s.halt c).fetched = s.fetched := rfl
@[simp] theorem State.halt_report (s : State) (c : Cause) : (s.halt c).report = s.report := rfl

/-! ## `retryWait` -/

@[simp] theorem State.retryWait_cfg (s : State) : (s.retryWait).cfg = s.cfg := rfl
@[simp] theorem State.retryWait_v (s : State) : (s.retryWait).v = s.v := rfl
@[simp] theorem State.retryWait_i (s : State) : (s.retryWait).i = s.i := rfl
@[simp] theorem State.retryWait_pc (s : State) : (s.retryWait).pc = s.pc - 2 := rfl
@[simp] theorem State.retryWait_dt (s : State) : (s.retryWait).dt = s.dt := rfl
@[simp] theorem State.retryWait_st (s : State) : (s.retryWait).st = s.st := rfl
@[simp] theorem State.retryWait_stack (s : State) : (s.retryWait).stack = s.stack := rfl
@[simp] theorem State.retryWait_mem (s : State) : (s.retryWait).mem = s.mem := rfl
@[simp] theorem State.retryWait_fb (s : State) : (s.retryWait).fb = s.fb := rfl
@[simp] theorem State.retryWait_wkActive (s : State) : (s.retryWait).wkActive = true := rfl
@[simp] theorem State.retryWait_wkPrev (s : State) : (s.retryWait).wkPrev = s.input.keys := rfl
@[simp] theorem State.retryWait_halted (s : State) : (s.retryWait).halted = s.halted := rfl
@[simp] theorem State.retryWait_haltCause (s : State) : (s.retryWait).haltCause = s.haltCause := rfl
@[simp] theorem State.retryWait_input (s : State) : (s.retryWait).input = s.input := rfl
@[simp] theorem State.retryWait_pending (s : State) : (s.retryWait).pending = s.pending := rfl
@[simp] theorem State.retryWait_stepNo (s : State) : (s.retryWait).stepNo = s.stepNo := rfl
@[simp] theorem State.retryWait_fetched (s : State) : (s.retryWait).fetched = s.fetched := rfl
@[simp] theorem State.retryWait_report (s : State) : (s.retryWait).report = s.report := rfl

/-! ## `commitHalted` -/

@[simp] theorem State.commitHalted_cfg (s : State) : (s.commitHalted).cfg = s.cfg := rfl
@[simp] theorem State.commitHalted_v (s : State) : (s.commitHalted).v = s.v := rfl
@[simp] theorem State.commitHalted_i (s : State) : (s.commitHalted).i = s.i := rfl
@[simp] theorem State.commitHalted_pc (s : State) : (s.commitHalted).pc = s.pc := rfl
@[simp] theorem State.commitHalted_dt (s : State) : (s.commitHalted).dt = s.dt := rfl
@[simp] theorem State.commitHalted_st (s : State) : (s.commitHalted).st = s.st := rfl
@[simp] theorem State.commitHalted_stack (s : State) : (s.commitHalted).stack = s.stack := rfl
@[simp] theorem State.commitHalted_mem (s : State) : (s.commitHalted).mem = s.mem := rfl
@[simp] theorem State.commitHalted_fb (s : State) : (s.commitHalted).fb = s.fb := rfl
@[simp] theorem State.commitHalted_wkActive (s : State) : (s.commitHalted).wkActive = s.wkActive := rfl
@[simp] theorem State.commitHalted_wkPrev (s : State) : (s.commitHalted).wkPrev = s.wkPrev := rfl
@[simp] theorem State.commitHalted_halted (s : State) : (s.commitHalted).halted = s.halted := rfl
@[simp] theorem State.commitHalted_haltCause (s : State) : (s.commitHalted).haltCause = s.haltCause := rfl
@[simp] theorem State.commitHalted_input (s : State) : (s.commitHalted).input = s.input := rfl
@[simp] theorem State.commitHalted_pending (s : State) : (s.commitHalted).pending = s.pending := rfl
@[simp] theorem State.commitHalted_stepNo (s : State) : (s.commitHalted).stepNo = s.stepNo := rfl
@[simp] theorem State.commitHalted_fetched (s : State) : (s.commitHalted).fetched = s.fetched := rfl
@[simp] theorem State.commitHalted_report (s : State) :
    (s.commitHalted).report = some { kind := .halted, cause := s.haltCause, addr := none, word := none, info := none } := rfl

/-! ## `commitFetchBounds` -/

@[simp] theorem State.commitFetchBounds_cfg (s : State) : (s.commitFetchBounds).cfg = s.cfg := rfl
@[simp] theorem State.commitFetchBounds_v (s : State) : (s.commitFetchBounds).v = s.v := rfl
@[simp] theorem State.commitFetchBounds_i (s : State) : (s.commitFetchBounds).i = s.i := rfl
@[simp] theorem State.commitFetchBounds_pc (s : State) : (s.commitFetchBounds).pc = s.pc := rfl
@[simp] theorem State.commitFetchBounds_dt (s : State) : (s.commitFetchBounds).dt = s.dt := rfl
@[simp] theorem State.commitFetchBounds_st (s : State) : (s.commitFetchBounds).st = s.st := rfl
@[simp] theorem State.commitFetchBounds_stack (s : State) : (s.commitFetchBounds).stack = s.stack := rfl
@[simp] theorem State.commitFetchBounds_mem (s : State) : (s.commitFetchBounds).mem = s.mem := rfl
@[simp] theorem State.commitFetchBounds_fb (s : State) : (s.commitFetchBounds).fb = s.fb := rfl
@[simp] theorem State.commitFetchBounds_wkActive (s : State) :
    (s.commitFetchBounds).wkActive = s.wkActive := rfl
@[simp] theorem State.commitFetchBounds_wkPrev (s : State) : (s.commitFetchBounds).wkPrev = s.wkPrev := rfl
@[simp] theorem State.commitFetchBounds_halted (s : State) : (s.commitFetchBounds).halted = true := rfl
@[simp] theorem State.commitFetchBounds_haltCause (s : State) :
    (s.commitFetchBounds).haltCause = .fetchBounds := rfl
@[simp] theorem State.commitFetchBounds_input (s : State) : (s.commitFetchBounds).input = s.input := rfl
@[simp] theorem State.commitFetchBounds_pending (s : State) : (s.commitFetchBounds).pending = s.pending := rfl
@[simp] theorem State.commitFetchBounds_stepNo (s : State) : (s.commitFetchBounds).stepNo = s.stepNo := rfl
@[simp] theorem State.commitFetchBounds_fetched (s : State) : (s.commitFetchBounds).fetched = s.fetched := rfl
@[simp] theorem State.commitFetchBounds_report (s : State) :
    (s.commitFetchBounds).report = some { kind := .guestError, cause := .fetchBounds, addr := some s.pc, word := none, info := some s.pc.toNat } := rfl

end Sys2Proof.Machine
end

