-- ==== Sys2Proof/Laws/Memory.lean ====
section
/-! SUPPORT. Memory: a read after a write, and that every memory operation keeps the canonical form. -/

namespace Sys2Proof.Machine

variable {init : Nat → Byte} {size lo a a' : Nat} {b : Byte} {m : Memory}

/-! ## One byte -/

theorem Memory.not_mem_erase (m : Memory) (a : Nat) : ∀ p ∈ Memory.erase m a, p.1 ≠ a := by
  induction m with
  | nil => simp [Memory.erase]
  | cons p m ih =>
    obtain ⟨k, c⟩ := p
    by_cases h : a = k
    · simpa [Memory.erase, h] using fun x y hm => by simpa [h] using ih (x, y) (by simpa [h] using hm)
    · simp only [Memory.erase, h, if_false, List.mem_cons]
      rintro q (rfl | hq)
      · exact fun e => h e.symm
      · exact ih q hq

theorem Memory.read_of_not_mem (h : ∀ p ∈ m, p.1 ≠ a) : Memory.read init m a = init a := by
  induction m with
  | nil => rfl
  | cons p m ih =>
    have hk : ¬ a = p.1 := fun e => h p List.mem_cons_self e.symm
    simpa [Memory.read, hk] using ih fun q hq => h q (List.mem_cons_of_mem _ hq)

theorem Memory.read_erase_ne (h : a' ≠ a) : Memory.read init (Memory.erase m a) a' = Memory.read init m a' := by
  induction m with
  | nil => rfl
  | cons p m ih =>
    obtain ⟨k, c⟩ := p
    by_cases hk : a = k
    · have : ¬ a' = k := fun e => h (e.trans hk.symm)
      simp [Memory.erase, Memory.read, hk, this, ← ih]
    · simp [Memory.erase, Memory.read, hk, ih]

theorem Memory.read_insert_self (h : ∀ p ∈ m, p.1 ≠ a) : Memory.read init (Memory.insert m a b) a = b := by
  induction m with
  | nil => simp [Memory.insert, Memory.read]
  | cons p m ih =>
    have hk : ¬ a = p.1 := fun e => h p List.mem_cons_self e.symm
    by_cases hlt : a < p.1
    · simp [Memory.insert, Memory.read, hlt]
    · simpa [Memory.insert, Memory.read, hlt, hk] using ih fun q hq => h q (List.mem_cons_of_mem _ hq)

theorem Memory.read_insert_ne (h : a' ≠ a) :
    Memory.read init (Memory.insert m a b) a' = Memory.read init m a' := by
  induction m with
  | nil => simp [Memory.insert, Memory.read, h]
  | cons p m ih =>
    by_cases hlt : a < p.1
    · simp [Memory.insert, Memory.read, hlt, h]
    · simp [Memory.insert, Memory.read, hlt, ih]

/-- A read gives what the last write to the same address stored, else what it gave before. -/
theorem Memory.read_write (init : Nat → Byte) (m : Memory) (a a' : Nat) (b : Byte) :
    Memory.read init (Memory.write init m a b) a' = if a' = a then b else Memory.read init m a' := by
  unfold Memory.write
  by_cases h : a' = a
  · subst h
    by_cases hb : b = init a'
    · simp [hb, Memory.read_of_not_mem (Memory.not_mem_erase m a')]
    · simp [hb, Memory.read_insert_self (Memory.not_mem_erase m a')]
  · by_cases hb : b = init a <;> simp [hb, h, Memory.read_erase_ne, Memory.read_insert_ne]

/-! ## The canonical form -/

theorem Memory.wfFrom_mono {lo' : Nat} (h : lo' ≤ lo) (hm : Memory.wfFrom init size lo m = true) :
    Memory.wfFrom init size lo' m = true := by
  cases m with
  | nil => rfl
  | cons p m =>
    simp only [Memory.wfFrom, Bool.and_eq_true, decide_eq_true_eq] at hm ⊢
    exact ⟨⟨⟨h.trans hm.1.1.1, hm.1.1.2⟩, hm.1.2⟩, hm.2⟩

theorem Memory.wfFrom_erase (a : Nat) (hm : Memory.wfFrom init size lo m = true) :
    Memory.wfFrom init size lo (Memory.erase m a) = true := by
  induction m generalizing lo with
  | nil => rfl
  | cons p m ih =>
    simp only [Memory.wfFrom, Bool.and_eq_true, decide_eq_true_eq] at hm
    by_cases h : a = p.1
    · simpa [Memory.erase, h] using Memory.wfFrom_mono (by omega) (h ▸ ih hm.2)
    · simpa [Memory.erase, h, Memory.wfFrom, hm.1.1.1, hm.1.1.2, ih hm.2] using hm.1.2

theorem Memory.wfFrom_insert (hm : Memory.wfFrom init size lo m = true) (hlo : lo ≤ a) (hs : a < size)
    (hb : b ≠ init a) (hn : ∀ p ∈ m, p.1 ≠ a) : Memory.wfFrom init size lo (Memory.insert m a b) = true := by
  induction m generalizing lo with
  | nil => simp [Memory.insert, Memory.wfFrom, hlo, hs, hb]
  | cons p m ih =>
    simp only [Memory.wfFrom, Bool.and_eq_true, decide_eq_true_eq] at hm
    have hk : p.1 ≠ a := hn p List.mem_cons_self
    by_cases h : a < p.1
    · have : a + 1 ≤ p.1 := h
      simpa [Memory.insert, h, Memory.wfFrom, hlo, hs, hb, hm.1.1.2, hm.2, this] using hm.1.2
    · have := ih hm.2 (by omega) fun q hq => hn q (List.mem_cons_of_mem _ hq)
      simpa [Memory.insert, h, Memory.wfFrom, hm.1.1.1, hm.1.1.2, this] using hm.1.2

theorem Memory.wf_write (hm : Memory.wf init size m = true) (hs : a < size) :
    Memory.wf init size (Memory.write init m a b) = true := by
  unfold Memory.wf Memory.write at *
  split
  · exact Memory.wfFrom_erase a hm
  · exact Memory.wfFrom_insert (Memory.wfFrom_erase a hm) (Nat.zero_le a) hs ‹_› (Memory.not_mem_erase m a)

/-! ## The state's memory -/

/-- What every address reads as after one byte is stored. -/
theorem State.readMem_writeMem (s : State) (a a' : Nat) (b : Byte) :
    (s.writeMem a b).readMem a' = if a' = a then b else s.readMem a' := by
  simp [State.readMem, Memory.read_write]

theorem State.memWf_writeMem {s : State} (h : s.memWf = true) (ha : a < s.cfg.memSize) :
    (s.writeMem a b).memWf = true := by
  simpa [State.memWf] using Memory.wf_write h ha

/-- Storing bytes changes memory alone. -/
theorem State.storeBytes_eq (s : State) (a : Nat) (bs : List Byte) :
    s.storeBytes a bs = { s with mem := (s.storeBytes a bs).mem } := by
  induction bs generalizing s a with
  | nil => rfl
  | cons b bs ih => rw [State.storeBytes, ih]; rfl

/-- What every address reads as after a list of bytes is stored at a, a+1, ... -/
theorem State.readMem_storeBytes (s : State) (a a' : Nat) (bs : List Byte) :
    (s.storeBytes a bs).readMem a' =
      if a ≤ a' ∧ a' < a + bs.length then bs.getD (a' - a) 0 else s.readMem a' := by
  induction bs generalizing s a with
  | nil => simp [State.storeBytes]
  | cons b bs ih =>
    rw [State.storeBytes, ih, State.readMem_writeMem]
    by_cases h : a' = a
    · subst h; simp
    · by_cases h1 : a + 1 ≤ a'
      · have e : a' - a = (a' - (a + 1)) + 1 := by omega
        have h0 : a ≤ a' := by omega
        by_cases h2 : a' < a + 1 + bs.length
        · have h3 : a' < a + (bs.length + 1) := by omega
          simp [h0, h1, h2, h3, e]
        · have h3 : ¬ a' < a + (bs.length + 1) := by omega
          simp [h2, h3, h]
      · have h0 : ¬ a ≤ a' := by omega
        simp [h0, h1, h]

theorem State.memWf_storeBytes {s : State} (bs : List Byte) (h : s.memWf = true)
    (ha : a + bs.length ≤ s.cfg.memSize) : (s.storeBytes a bs).memWf = true := by
  induction bs generalizing s a with
  | nil => exact h
  | cons b bs ih =>
    simp only [List.length_cons] at ha
    exact ih (State.memWf_writeMem h (by omega)) (by simp; omega)

end Sys2Proof.Machine
end

