-- ==== Sys2Proof/Laws/Ops.lean ====
section
/-! SUPPORT. The shared operations: what each reads, what each leaves, and what it can answer. -/

namespace Sys2Proof.Machine

/-! ## Registers -/

theorem State.getV_setV (s : State) (r q : RegIx) (b : Byte) :
    (s.setV r b).getV q = if q = r then b else s.getV q := by
  by_cases h : q = r
  · subst h; simp [State.getV, State.setV]
  · have : r.val ≠ q.val := fun e => h (Fin.ext e.symm)
    simp [State.getV, State.setV, h, Vector.getElem_set_ne, this]

@[simp] theorem State.getV_setV_self (s : State) (r : RegIx) (b : Byte) : (s.setV r b).getV r = b := by
  simp [State.getV_setV]

theorem State.getV_setV_ne {s : State} {r q : RegIx} {b : Byte} (h : q ≠ r) :
    (s.setV r b).getV q = s.getV q := by
  simp [State.getV_setV, h]

/-- A register depends on the register file alone. -/
theorem State.getV_congr {s t : State} (h : t.v = s.v) (r : RegIx) : t.getV r = s.getV r := by
  simp [State.getV, h]

@[simp] theorem State.getV_withReport (s : State) (k : OutcomeKind) (c : Cause) (n : Option Nat) (r : RegIx) :
    (s.withReport k c n).getV r = s.getV r := rfl

/-- A byte of memory depends on the configuration and the memory alone. -/
theorem State.readMem_congr {s t : State} (hc : t.cfg = s.cfg) (hm : t.mem = s.mem) (a : Nat) :
    t.readMem a = s.readMem a := by
  simp [State.readMem, hc, hm]

@[simp] theorem State.readMem_setV (s : State) (r : RegIx) (b : Byte) (a : Nat) :
    (s.setV r b).readMem a = s.readMem a := rfl

@[simp] theorem State.readMem_withReport (s : State) (k : OutcomeKind) (c : Cause) (n : Option Nat) (a : Nat) :
    (s.withReport k c n).readMem a = s.readMem a := rfl

/-! ## Fetch (LD Vx, [I]) and the index -/

/-- Loading registers changes the register file alone. -/
theorem State.foldl_setV_eq (f : State → RegIx → State) (rs : List RegIx) (s : State)
    (hf : ∀ t r, ∃ v, f t r = { t with v := v }) : ∃ v, rs.foldl f s = { s with v := v } := by
  induction rs generalizing s with
  | nil => exact ⟨s.v, rfl⟩
  | cons r rs ih =>
    obtain ⟨v, hv⟩ := hf s r
    obtain ⟨v', hv'⟩ := ih (f s r)
    exact ⟨v', by rw [List.foldl_cons, hv', hv]⟩

theorem State.loadRegs_eq (s : State) (x : RegIx) : ∃ v, s.loadRegs x = { s with v := v } :=
  State.foldl_setV_eq _ _ s fun t r => by
    by_cases h : r ≤ x
    · exact ⟨_, by simp only [h, if_true]; rfl⟩
    · exact ⟨t.v, by simp only [h, if_false]⟩

theorem State.getV_foldl_load (s : State) (x q : RegIx) (rs : List RegIx) (t : State) :
    (rs.foldl (fun t r => if r ≤ x then t.setV r (s.readMem (s.i.toNat + r.val)) else t) t).getV q =
      if q ∈ rs ∧ q ≤ x then s.readMem (s.i.toNat + q.val) else t.getV q := by
  induction rs generalizing t with
  | nil => simp
  | cons r rs ih =>
    rw [List.foldl_cons, ih]
    by_cases hx : q ≤ x
    · by_cases hq : q = r
      · subst hq; simp [hx]
      · by_cases hr : r ≤ x <;> simp [hx, hq, hr, State.getV_setV_ne]
    · by_cases hr : r ≤ x
      · have hq : q ≠ r := fun e => hx (e ▸ hr)
        simp [hx, hr, State.getV_setV_ne hq]
      · simp [hx, hr]

/-- V0..Vx hold the bytes from I on; the others are as before (42_load_store.md R102). -/
theorem State.getV_loadRegs (s : State) (x q : RegIx) :
    (s.loadRegs x).getV q = if q ≤ x then s.readMem (s.i.toNat + q.val) else s.getV q := by
  rw [State.loadRegs, State.getV_foldl_load]
  simp [List.mem_finRange]

/-- I after Stash and Fetch; nothing else changes (R100). -/
theorem State.bumpIndex_eq (s : State) (x : RegIx) :
    s.bumpIndex x =
      { s with i := if s.cfg.loadStoreIncrementsI then BitVec.ofNat 16 (s.i.toNat + x.val + 1) else s.i } := by
  unfold State.bumpIndex
  split <;> rfl

theorem State.length_regsUpTo (s : State) (x : RegIx) : (s.regsUpTo x).length = x.val + 1 := by
  simp [State.regsUpTo]

theorem State.getD_regsUpTo (s : State) (x q : RegIx) (h : q ≤ x) : (s.regsUpTo x).getD q.val 0 = s.getV q := by
  have hq : q.val < x.val + 1 := Nat.lt_succ_of_le h
  simp [State.regsUpTo, State.getV, List.getD_eq_getElem?_getD, hq]

/-! ## Ranges -/

/-- The range check passes exactly when no byte is accessed or the last one is inside memory. -/
theorem State.firstOutOfRange_eq_none (s : State) (n : Nat) :
    s.firstOutOfRange n = none ↔ n = 0 ∨ s.i.toNat + n - 1 < s.cfg.memSize := by
  unfold State.firstOutOfRange
  split
  · simp [*]
  · split
    · simp [*]
    · simp [*]; omega

theorem withRange_in {s : State} {n : Nat} (k : Effect) (h : n = 0 ∨ s.i.toNat + n - 1 < s.cfg.memSize) :
    withRange s n k = k := by
  simp [withRange, (State.firstOutOfRange_eq_none s n).2 h]

theorem withRange_out {s : State} {n : Nat} (k : Effect) (hn : n ≠ 0) (h : s.cfg.memSize ≤ s.i.toNat + n - 1) :
    withRange s n k = .raise (.guestError .memBounds (max s.i.toNat s.cfg.memSize)) := by
  simp [withRange, State.firstOutOfRange, hn, h]

/-! ## Operands -/

@[simp] theorem withLoad_register (s : State) (r : RegIx) (k : Nat → Effect) :
    withLoad s (.register r) k = k (s.getV r).toNat := rfl

@[simp] theorem withLoad_immediate8 (s : State) (v : BitVec 8) (k : Nat → Effect) :
    withLoad s (.immediate8 v) k = k v.toNat := rfl

@[simp] theorem withLoad_immediate12 (s : State) (v : BitVec 12) (k : Nat → Effect) :
    withLoad s (.immediate12 v) k = k v.toNat := rfl

@[simp] theorem withLoad_immediate4 (s : State) (v : BitVec 4) (k : Nat → Effect) :
    withLoad s (.immediate4 v) k = k v.toNat := rfl

@[simp] theorem withLoad_indexRegister (s : State) (k : Nat → Effect) :
    withLoad s .indexRegister k = k s.i.toNat := rfl

@[simp] theorem withLoad_delayTimer (s : State) (k : Nat → Effect) :
    withLoad s .delayTimer k = k s.dt.toNat := rfl

@[simp] theorem withStore_register (s : State) (r : RegIx) (v : Nat) (k : State → Effect) :
    withStore s (.register r) v k = k (s.setV r (BitVec.ofNat 8 v)) := rfl

@[simp] theorem withStore_indexRegister (s : State) (v : Nat) (k : State → Effect) :
    withStore s .indexRegister v k = k (s.setI v) := rfl

@[simp] theorem withStore_delayTimer (s : State) (v : Nat) (k : State → Effect) :
    withStore s .delayTimer v k = k (s.setDt v) := rfl

@[simp] theorem withStore_soundTimer (s : State) (v : Nat) (k : State → Effect) :
    withStore s .soundTimer v k = k (s.setSt v) := rfl

/-! ## Skips -/

/-- A skip changes pc alone (43_control.md R104). -/
theorem State.skipIf_eq (s : State) (c : Bool) : s.skipIf c = { s with pc := if c then s.pc + 2 else s.pc } := by
  cases c <;> rfl

/-! ## The commit -/

/-- A raised outcome changes the report, `halted` and `halt_cause` alone (60_exceptions.md R123, R124). -/
theorem State.commitRaise_eq (s : State) (r : Raise) :
    s.commitRaise r =
      { s with halted := (s.commitRaise r).halted, haltCause := (s.commitRaise r).haltCause,
               report := (s.commitRaise r).report } := by
  cases r <;> simp only [State.commitRaise, State.applyMissPolicy, State.applyGuestPolicy] <;>
    first | rfl | (split <;> rfl)

/-- Whatever an execute phase does, the commit answers a next state, which is one of these three. -/
theorem commit_next {s t : State} {e : Effect} (h : commit s e = .next t) :
    (∃ u, e = .ok u ∧ t = u.withReport .ok .noCause none) ∨
    (∃ u, e = .waiting u ∧ t = u.withReport .waiting .noCause none) ∨
    (∃ r, e = .raise r ∧ t = s.commitRaise r) := by
  cases e with
  | ok u => exact .inl ⟨u, rfl, by simpa [commit] using h.symm⟩
  | waiting u => exact .inr (.inl ⟨u, rfl, by simpa [commit] using h.symm⟩)
  | raise r => exact .inr (.inr ⟨r, rfl, by simpa [commit] using h.symm⟩)

/-! ## Framebuffer -/

/-- A pixel after another (or the same) pixel is flipped (44_display_input.md R116). -/
theorem FrameBuffer.pixel_flip (fb : FrameBuffer) (y y' : Fin 32) (x x' : Fin 64) :
    FrameBuffer.pixel (FrameBuffer.flip fb y x) y' x' =
      if y' = y ∧ x' = x then !FrameBuffer.pixel fb y' x' else FrameBuffer.pixel fb y' x' := by
  unfold FrameBuffer.pixel FrameBuffer.flip
  by_cases hy : y' = y
  · subst hy
    by_cases hx : x' = x
    · subst hx; simp
    · have : x.val ≠ x'.val := fun e => hx (Fin.ext e.symm)
      simp [hx, Vector.getElem_set_ne, this]
  · have : y.val ≠ y'.val := fun e => hy (Fin.ext e.symm)
    simp [hy, Vector.getElem_set_ne, this]

@[simp] theorem FrameBuffer.pixel_clear (y : Fin 32) (x : Fin 64) :
    FrameBuffer.pixel FrameBuffer.clear y x = false := by
  simp [FrameBuffer.pixel, FrameBuffer.clear]

/-- Two framebuffers with the same pixels are the same. -/
theorem FrameBuffer.ext_pixel {f g : FrameBuffer} (h : ∀ y x, FrameBuffer.pixel f y x = FrameBuffer.pixel g y x) :
    f = g := by
  apply Vector.ext
  intro y hy
  apply Vector.ext
  intro x hx
  exact h ⟨y, hy⟩ ⟨x, hx⟩

/-! ## Timers -/

@[simp] theorem tickDown_false (t : Byte) : tickDown false t = t := by
  unfold tickDown; split <;> simp_all

theorem tickDown_true (t : Byte) : tickDown true t = if t = 0 then 0 else t - 1 := by
  simp [tickDown]

/-! ## Fetch -/

/-- The fetched word depends on the configuration, the memory and pc alone. -/
theorem State.fetchWord_congr {s t : State} (hc : t.cfg = s.cfg) (hm : t.mem = s.mem) (hp : t.pc = s.pc) :
    t.fetchWord = s.fetchWord := by
  simp [State.fetchWord, State.readMem, hc, hm, hp]

/-- Inputs and tick do not change what is fetched. -/
@[simp] theorem State.fetchWord_applyTick_latchInput (s : State) :
    s.latchInput.applyTick.fetchWord = s.fetchWord := State.fetchWord_congr rfl rfl rfl

end Sys2Proof.Machine
end

