-- ==== Sys2Proof/Laws/Display.lean ====
section
/-! SUPPORT. The XOR-blit and the new key press: everything each of them answers. -/

namespace Sys2Proof.Machine

/-! ## The XOR-blit -/

/-- A pixel after the first m columns of sprite row r: flipped exactly when a set bit lands on it. -/
theorem blitRow_pixel (cx cy r : Nat) (b : Byte) (acc : Blit) (py : Fin 32) (px : Fin 64) (m : Nat) (hm : m ≤ 8) :
    FrameBuffer.pixel ((List.range m).foldl (blitPixel cx cy r b) acc).fb py px =
      (FrameBuffer.pixel acc.fb py px ^^
        decide (∃ c, c < m ∧ (cy + r) % 32 = py.val ∧ (cx + c) % 64 = px.val ∧ b.getLsbD (7 - c) = true)) := by
  induction m with
  | zero => simp
  | succ m ih =>
    rw [List.range_succ, List.foldl_append, List.foldl_cons, List.foldl_nil]
    have ih := ih (by omega)
    generalize (List.range m).foldl (blitPixel cx cy r b) acc = a at *
    unfold blitPixel
    by_cases hb : b.getLsbD (7 - m) = true
    · simp only [hb, if_true, FrameBuffer.pixel_flip, ih]
      have e1 : py = wrapRow (cy + r) ↔ (cy + r) % 32 = py.val := by
        simp only [wrapRow, Fin.ext_iff, Fin.val_ofNat]; omega
      have e2 : px = wrapCol (cx + m) ↔ (cx + m) % 64 = px.val := by
        simp only [wrapCol, Fin.ext_iff, Fin.val_ofNat]; omega
      simp only [e1, e2]
      by_cases h : (cy + r) % 32 = py.val ∧ (cx + m) % 64 = px.val
      · have h1 : ¬ ∃ c, c < m ∧ (cy + r) % 32 = py.val ∧ (cx + c) % 64 = px.val ∧ b.getLsbD (7 - c) = true := by
          rintro ⟨c, hc, -, h2, -⟩; omega
        have h2 : ∃ c, c < m + 1 ∧ (cy + r) % 32 = py.val ∧ (cx + c) % 64 = px.val ∧ b.getLsbD (7 - c) = true :=
          ⟨m, by omega, h.1, h.2, hb⟩
        rw [if_pos h, decide_eq_false h1, decide_eq_true h2]; simp
      · rw [if_neg h]
        congr 1
        apply decide_eq_decide.2
        constructor
        · rintro ⟨c, hc, h⟩; exact ⟨c, by omega, h⟩
        · rintro ⟨c, hc, h1, h2, h3⟩
          refine ⟨c, ?_, h1, h2, h3⟩
          by_contra hh
          have : c = m := by omega
          subst this; exact h ⟨h1, h2⟩
    · simp only [hb, Bool.false_eq_true, if_false, ih]
      congr 1
      apply decide_eq_decide.2
      constructor
      · rintro ⟨c, hc, h⟩; exact ⟨c, by omega, h⟩
      · rintro ⟨c, hc, h1, h2, h3⟩
        refine ⟨c, ?_, h1, h2, h3⟩
        by_contra hh
        have : c = m := by omega
        subst this; exact hb h3


/-- The hit after the first m columns of sprite row r. -/
theorem blitRow_hit (cx cy r : Nat) (b : Byte) (acc : Blit) (m : Nat) (hm : m ≤ 8) :
    ((List.range m).foldl (blitPixel cx cy r b) acc).hit = true ↔
      (acc.hit = true ∨ (∃ py px, FrameBuffer.pixel acc.fb py px = true ∧
        ∃ c, c < m ∧ (cy + r) % 32 = py.val ∧ (cx + c) % 64 = px.val ∧ b.getLsbD (7 - c) = true)) := by
  induction m with
  | zero => simp
  | succ m ih =>
    rw [List.range_succ, List.foldl_append, List.foldl_cons, List.foldl_nil]
    have ih := ih (by omega)
    have hp := fun py px => blitRow_pixel cx cy r b acc py px m (by omega)
    generalize (List.range m).foldl (blitPixel cx cy r b) acc = a at *
    unfold blitPixel
    by_cases hb : b.getLsbD (7 - m) = true
    · simp only [hb, if_true]
      rw [hp, Bool.or_eq_true, ih]
      have h1 : ¬ ∃ c, c < m ∧ (cy + r) % 32 = (wrapRow (cy + r)).val ∧ (cx + c) % 64 = (wrapCol (cx + m)).val ∧ b.getLsbD (7 - c) = true := by
        rintro ⟨c, hc, -, h2, -⟩; simp only [wrapCol, Fin.val_ofNat] at h2; omega
      rw [decide_eq_false h1, Bool.xor_false, or_assoc]
      refine or_congr Iff.rfl ?_
      constructor
      · rintro (⟨py, px, hp, c, hc, h⟩ | h)
        · exact ⟨py, px, hp, c, by omega, h⟩
        · exact ⟨_, _, h, m, by omega, by simp [wrapRow], by simp [wrapCol], hb⟩
      · rintro ⟨py, px, hpx, c, hc, g1, g2, g3⟩
        by_cases hcm : c = m
        · subst hcm
          right
          have e1 : wrapRow (cy + r) = py := by apply Fin.ext; simpa [wrapRow] using g1
          have e2 : wrapCol (cx + c) = px := by apply Fin.ext; simpa [wrapCol] using g2
          rw [e1, e2]; exact hpx
        · exact .inl ⟨py, px, hpx, c, by omega, g1, g2, g3⟩
    · simp only [hb, Bool.false_eq_true, if_false]
      rw [ih]
      refine or_congr Iff.rfl ?_
      constructor
      · rintro ⟨py, px, hp, c, hc, h⟩; exact ⟨py, px, hp, c, by omega, h⟩
      · rintro ⟨py, px, hp, c, hc, h1, h2, h3⟩
        refine ⟨py, px, hp, c, ?_, h1, h2, h3⟩
        by_contra hh
        have : c = m := by omega
        subst this; exact hb h3

/-- The framebuffer and the hit after n sprite rows (44_display_input.md R116). A sprite never overlaps itself:
it has at most 32 rows and 8 columns. -/
theorem blit_spec (s : State) (cx cy n : Nat) (hn : n ≤ 32) :
    (∀ py px, (SpriteCovers s cx cy n py px → FrameBuffer.pixel (s.blit cx cy n).fb py px = !FrameBuffer.pixel s.fb py px) ∧
      (¬ SpriteCovers s cx cy n py px → FrameBuffer.pixel (s.blit cx cy n).fb py px = FrameBuffer.pixel s.fb py px)) ∧
    ((s.blit cx cy n).hit = true ↔ (∃ py px, SpriteCovers s cx cy n py px ∧ FrameBuffer.pixel s.fb py px = true)) := by
  induction n with
  | zero => simp [State.blit, SpriteCovers]
  | succ n ih =>
    obtain ⟨ih1, ih2⟩ := ih (by omega)
    have e : s.blit cx cy (n + 1) = blitRow cx cy n (s.readMem (s.i.toNat + n)) (s.blit cx cy n) := by
      simp [State.blit, List.range_succ]
    have hex : ∀ py : Fin 32, ∀ px : Fin 64, SpriteCovers s cx cy (n + 1) py px ↔ SpriteCovers s cx cy n py px ∨
        ∃ c, c < 8 ∧ (cy + n) % 32 = py.val ∧ (cx + c) % 64 = px.val ∧ (s.readMem (s.i.toNat + n)).getLsbD (7 - c) = true := by
      intro py px
      constructor
      · rintro ⟨r, c, hr, h⟩
        by_cases hrn : r = n
        · subst hrn; exact .inr ⟨c, h⟩
        · exact .inl ⟨r, c, by omega, h⟩
      · rintro (⟨r, c, hr, h⟩ | ⟨c, h⟩)
        · exact ⟨r, c, by omega, h⟩
        · exact ⟨n, c, by omega, h⟩
    have hdis : ∀ py : Fin 32, ∀ px : Fin 64, (∃ c, c < 8 ∧ (cy + n) % 32 = py.val ∧ (cx + c) % 64 = px.val ∧ (s.readMem (s.i.toNat + n)).getLsbD (7 - c) = true) → ¬ SpriteCovers s cx cy n py px := by
      rintro py px ⟨c, _, h, _⟩ ⟨r, c', hr, _, h', _⟩; omega
    constructor
    · intro py px
      rw [e, blitRow, blitRow_pixel _ _ _ _ _ _ _ 8 (by omega)]
      have hx := hex py px; have hd := hdis py px; have i1 := ih1 py px
      constructor
      · intro hc
        rcases hx.1 hc with h | h
        · have : ¬ _ := fun h2 => hd h2 h
          rw [i1.1 h, decide_eq_false this, Bool.xor_false]
        · rw [i1.2 (hd h), decide_eq_true h, Bool.xor_true]
      · intro hc
        rw [i1.2 (fun h => hc (hx.2 (.inl h))), decide_eq_false (fun h => hc (hx.2 (.inr h))), Bool.xor_false]
    · rw [e, blitRow, blitRow_hit _ _ _ _ _ 8 (by omega), ih2]
      constructor
      · rintro (⟨py, px, h1, h2⟩ | ⟨py, px, h1, h2⟩)
        · exact ⟨py, px, (hex _ _).2 (.inl h1), h2⟩
        · rw [(ih1 py px).2 (hdis _ _ h2)] at h1
          exact ⟨py, px, (hex _ _).2 (.inr h2), h1⟩
      · rintro ⟨py, px, h1, h2⟩
        rcases (hex _ _).1 h1 with h | h
        · exact .inl ⟨py, px, h, h2⟩
        · exact .inr ⟨py, px, by rw [(ih1 py px).2 (hdis _ _ h), h2], h⟩

/-! ## The new key press -/

/-- The lowest key that is down now and was not before is found (R120). -/
theorem newPress_some {p n : KeySet} {k : RegIx} (h1 : n.getLsbD k.val = true) (h2 : p.getLsbD k.val = false)
   (h : ∀ j : RegIx, j < k → ¬ (n.getLsbD j.val = true ∧ p.getLsbD j.val = false)) : newPress p n = some k := by
  unfold newPress
  rw [List.find?_eq_some_iff_getElem]
  refine ⟨by rw [h1, h2]; rfl, k.val, by simp, by simp, fun j hj => ?_⟩
  have := h ⟨j, by omega⟩ hj
  simp only [List.getElem_finRange] 
  cases ha : n.getLsbD j <;> cases hb : p.getLsbD j <;> simp_all

/-- No key went down: none is found (R120). -/
theorem newPress_none {p n : KeySet} 
   (h : ∀ j, j < 16 → ¬ (n.getLsbD j = true ∧ p.getLsbD j = false)) : newPress p n = none := by
  unfold newPress
  rw [List.find?_eq_none]
  intro j _
  simpa using h j.val j.isLt

end Sys2Proof.Machine
end

