-- ==== Sys2Proof/Laws/Exec.lean ====
section
/-! SUPPORT. One equation per meaning: what an instruction answers, in the shared operations, with the operand
resolution, the wiring check and the commit already taken away. -/

namespace Sys2Proof.Machine

/-- The state a completed instruction leaves, with its report. -/
abbrev State.done (t : State) : State := t.withReport .ok .noCause none

/-! ## ALU -/

theorem execAddVxKk_eq (x : RegIx) (kk : Byte) (s : State) :
    execAddVxKk x kk s = .next (s.setV x (BitVec.ofNat 8 ((s.getV x).toNat + kk.toNat))).done := rfl

theorem execAddVxVy_eq (x y : RegIx) (s : State) :
    execAddVxVy x y s = .next ((s.setV x (BitVec.ofNat 8 ((s.getV x).toNat + (s.getV y).toNat))).setV 15
      (carryFlag ((s.getV x).toNat + (s.getV y).toNat))).done := rfl

theorem execAddIVx_eq (x : RegIx) (s : State) :
    execAddIVx x s = .next (s.setI (s.i.toNat + (s.getV x).toNat)).done := rfl

theorem execSubVxVy_eq (x y : RegIx) (s : State) :
    execSubVxVy x y s = .next ((s.setV x (BitVec.ofNat 8 ((s.getV x).toNat + 0x100 - (s.getV y).toNat))).setV 15
      (noBorrowFlag (s.getV x).toNat (s.getV y).toNat)).done := rfl

theorem execSubnVxVy_eq (x y : RegIx) (s : State) :
    execSubnVxVy x y s = .next ((s.setV x (BitVec.ofNat 8 ((s.getV y).toNat + 0x100 - (s.getV x).toNat))).setV 15
      (noBorrowFlag (s.getV y).toNat (s.getV x).toNat)).done := rfl

theorem execOrVxVy_eq (x y : RegIx) (s : State) :
    execOrVxVy x y s = .next (s.setV x (BitVec.ofNat 8 ((s.getV x).toNat ||| (s.getV y).toNat))).done := rfl

theorem execAndVxVy_eq (x y : RegIx) (s : State) :
    execAndVxVy x y s = .next (s.setV x (BitVec.ofNat 8 ((s.getV x).toNat &&& (s.getV y).toNat))).done := rfl

theorem execXorVxVy_eq (x y : RegIx) (s : State) :
    execXorVxVy x y s = .next (s.setV x (BitVec.ofNat 8 ((s.getV x).toNat ^^^ (s.getV y).toNat))).done := rfl

theorem execShrVxVy_eq (x y : RegIx) (s : State) :
    execShrVxVy x y s = .next ((s.setV x (BitVec.ofNat 8 ((s.getV y).toNat >>> 1))).setV 15
      (shiftOutRight (s.getV y).toNat)).done := rfl

theorem execShlVxVy_eq (x y : RegIx) (s : State) :
    execShlVxVy x y s = .next ((s.setV x (BitVec.ofNat 8 ((s.getV y).toNat <<< 1))).setV 15
      (shiftOutLeft (s.getV y).toNat)).done := rfl

theorem execRnd_eq (x : RegIx) (kk : Byte) (s : State) :
    execRnd x kk s = .next (s.setV x (BitVec.ofNat 8 (s.input.rnd.toNat &&& kk.toNat))).done := rfl

/-! ## Loads and stores -/

theorem execLdVxKk_eq (x : RegIx) (kk : Byte) (s : State) :
    execLdVxKk x kk s = .next (s.setV x kk).done := by
  simp [execLdVxKk, opLoad, wired, acceptsKinds, Operand.kind, OperandKind.storable, OperandKind.loadable, commit]

theorem execLdVxVy_eq (x y : RegIx) (s : State) :
    execLdVxVy x y s = .next (s.setV x (s.getV y)).done := by
  simp [execLdVxVy, opLoad, wired, acceptsKinds, Operand.kind, OperandKind.storable, OperandKind.loadable, commit]

theorem execLdINnn_eq (nnn : BitVec 12) (s : State) :
    execLdINnn nnn s = .next (s.setI nnn.toNat).done := rfl

theorem execLdVxDt_eq (x : RegIx) (s : State) : execLdVxDt x s = .next (s.setV x s.dt).done := by
  simp [execLdVxDt, opLoad, wired, acceptsKinds, Operand.kind, OperandKind.storable, OperandKind.loadable, commit]

theorem execLdDtVx_eq (x : RegIx) (s : State) : execLdDtVx x s = .next (s.setDt (s.getV x).toNat).done := rfl

theorem execLdStVx_eq (x : RegIx) (s : State) : execLdStVx x s = .next (s.setSt (s.getV x).toNat).done := rfl

theorem execLdFVx_eq (x : RegIx) (s : State) :
    execLdFVx x s = .next (s.setI (s.cfg.fontBase + s.cfg.fontGlyphStride * (s.getV x).toNat)).done := rfl

theorem execLdBVx_eq (x : RegIx) (s : State) :
    execLdBVx x s = commit s (withRange s 3 (.ok (s.storeBytes s.i.toNat (bcdDigits (s.getV x).toNat)))) := rfl

theorem execLdIndVx_eq (x : RegIx) (s : State) :
    execLdIndVx x s =
      commit s (withRange s (x.val + 1) (.ok ((s.storeBytes s.i.toNat (s.regsUpTo x)).bumpIndex x))) := rfl

theorem execLdVxInd_eq (x : RegIx) (s : State) :
    execLdVxInd x s = commit s (withRange s (x.val + 1) (.ok ((s.loadRegs x).bumpIndex x))) := rfl

/-! ## Control transfer -/

theorem execJp_eq (nnn : BitVec 12) (s : State) : execJp nnn s = .next (s.setPc nnn.toNat).done := rfl

theorem execJpV0_eq (nnn : BitVec 12) (s : State) :
    execJpV0 nnn s = .next (s.setPc (nnn.toNat + (s.getV 0).toNat)).done := rfl

theorem execCall_eq (nnn : BitVec 12) (s : State) :
    execCall nnn s =
      if s.stackFull then .next (s.commitRaise (.guestError .stackOverflow s.stack.length))
      else .next ((s.push s.pc).setPc nnn.toNat).done := by
  cases h : s.stackFull <;>
    simp [execCall, opCall, wired, acceptsKinds, Operand.kind, OperandKind.loadable, commit, h]

/-- RET by the last return address, if there is one. -/
theorem execRet_cases (s : State) :
    execRet s =
      match s.stack.getLast? with
      | none => .next (s.commitRaise (.guestError .stackUnderflow 0))
      | some a => .next (State.done { s with stack := s.stack.dropLast, pc := a }) := by
  simp only [execRet, opRet, wired, acceptsKinds, if_true]
  cases s.stack.getLast? <;> rfl

theorem execRet_nil {s : State} (h : s.stack = []) :
    execRet s = .next (s.commitRaise (.guestError .stackUnderflow 0)) := by
  simp [execRet, opRet, wired, acceptsKinds, commit, h]

theorem execRet_snoc {s : State} {S : List Word} {a : Word} (h : s.stack = S ++ [a]) :
    execRet s = .next (State.done { s with stack := S, pc := a }) := by
  simp [execRet, opRet, wired, acceptsKinds, commit, h]

theorem execSeVxKk_eq (x : RegIx) (kk : Byte) (s : State) :
    execSeVxKk x kk s = .next (s.skipIf ((s.getV x).toNat == kk.toNat)).done := rfl

theorem execSneVxKk_eq (x : RegIx) (kk : Byte) (s : State) :
    execSneVxKk x kk s = .next (s.skipIf ((s.getV x).toNat != kk.toNat)).done := rfl

theorem execSeVxVy_eq (x y : RegIx) (s : State) :
    execSeVxVy x y s = .next (s.skipIf ((s.getV x).toNat == (s.getV y).toNat)).done := rfl

theorem execSneVxVy_eq (x y : RegIx) (s : State) :
    execSneVxVy x y s = .next (s.skipIf ((s.getV x).toNat != (s.getV y).toNat)).done := rfl

theorem execSys_eq (nnn : BitVec 12) (s : State) : execSys nnn s = .next (s.commitRaise (.sys nnn.toNat)) := rfl

/-! ## Display and keys -/

theorem execCls_eq (s : State) : execCls s = .next (State.done { s with fb := FrameBuffer.clear }) := rfl

/-- The blit reads memory, I and the framebuffer alone. -/
theorem State.blit_setV (s : State) (r : RegIx) (b : Byte) (cx cy n : Nat) :
    (s.setV r b).blit cx cy n = s.blit cx cy n := rfl

theorem execDrw_eq (x y : RegIx) (n : Nibble) (s : State) :
    execDrw x y n s =
      commit s (withRange s n.toNat (.ok ({ s.setV 15 0 with
          fb := (s.blit (s.getV x).toNat (s.getV y).toNat n.toNat).fb }.setV 15
        (flagByte (s.blit (s.getV x).toNat (s.getV y).toNat n.toNat).hit)))) := rfl

theorem execSkp_eq (x : RegIx) (s : State) :
    execSkp x s =
      if 16 ≤ (s.getV x).toNat then .next (s.commitRaise (.guestError .keyIndexRange (s.getV x).toNat))
      else .next (s.skipIf (s.input.keys.getLsbD (s.getV x).toNat)).done := by
  by_cases h : 16 ≤ (s.getV x).toNat <;>
    simp [execSkp, opSkipKey, keySkip, wired, acceptsKinds, Operand.kind, commit, h]

theorem execSknp_eq (x : RegIx) (s : State) :
    execSknp x s =
      if 16 ≤ (s.getV x).toNat then .next (s.commitRaise (.guestError .keyIndexRange (s.getV x).toNat))
      else .next (s.skipIf (!s.input.keys.getLsbD (s.getV x).toNat)).done := by
  by_cases h : 16 ≤ (s.getV x).toNat <;>
    simp [execSknp, opSkipNKey, keySkip, wired, acceptsKinds, Operand.kind, commit, h]

theorem execLdVxK_eq (x : RegIx) (s : State) :
    execLdVxK x s =
      if s.wkActive then
        match newPress s.wkPrev s.input.keys with
        | none => .next (s.retryWait.withReport .waiting .noCause none)
        | some k => .next (State.done { s.setV x (BitVec.ofNat 8 k.val) with wkActive := false })
      else .next (s.retryWait.withReport .waiting .noCause none) := by
  cases hw : s.wkActive <;> cases hp : newPress s.wkPrev s.input.keys <;>
    simp [execLdVxK, opWaitKey, wired, acceptsKinds, Operand.kind, commit, hw, hp]

end Sys2Proof.Machine
end

