-- ==== Sys2Proof/Laws/PerInstr.lean ====
section
/-! SUPPORT. Per instruction: the word an instruction is encoded as is accepted by the instruction's own row of
the table (30_encoding.md R53, R59). -/

namespace Sys2Proof.Laws

/-- The row of an instruction, counted from 0. -/
def rowIndex : Instr → Fin 35
  | .cls => 0
  | .ret => 1
  | .sys _ => 2
  | .jp _ => 3
  | .call _ => 4
  | .seVxKk _ _ => 5
  | .sneVxKk _ _ => 6
  | .seVxVy _ _ => 7
  | .ldVxKk _ _ => 8
  | .addVxKk _ _ => 9
  | .ldVxVy _ _ => 10
  | .orVxVy _ _ => 11
  | .andVxVy _ _ => 12
  | .xorVxVy _ _ => 13
  | .addVxVy _ _ => 14
  | .subVxVy _ _ => 15
  | .shrVxVy _ _ => 16
  | .subnVxVy _ _ => 17
  | .shlVxVy _ _ => 18
  | .sneVxVy _ _ => 19
  | .ldINnn _ => 20
  | .jpV0 _ => 21
  | .rnd _ _ => 22
  | .drw _ _ _ => 23
  | .skp _ => 24
  | .sknp _ => 25
  | .ldVxDt _ => 26
  | .ldVxK _ => 27
  | .ldDtVx _ => 28
  | .ldStVx _ => 29
  | .addIVx _ => 30
  | .ldFVx _ => 31
  | .ldBVx _ => 32
  | .ldIndVx _ => 33
  | .ldVxInd _ => 34

/-- The encoded word is accepted by the instruction's own row. -/
def EncodesItsRow.Statement (i : Instr) : Prop := (row (rowIndex i)).accepts (encode i) = true

/-- A row that fixes the first nibble alone accepts the words of that nibble. -/
theorem accepts_F000 {d : InstrDef} {w : Word} (hm : codingMask d.coding = 0xF000#16)
    (hv : codingValue d.coding &&& 0xF000#16 = nibble w 3 ++ 0#12) : d.accepts w = true := by
  simp [InstrDef.accepts, hm, hv, and_F000]

/-- A row that fixes the first and last nibbles accepts the words of those nibbles. -/
theorem accepts_F00F {d : InstrDef} {w : Word} (hm : codingMask d.coding = 0xF00F#16)
    (hv : codingValue d.coding &&& 0xF00F#16 = nibble w 3 ++ 0#8 ++ nField w) : d.accepts w = true := by
  simp [InstrDef.accepts, hm, hv, and_F00F]

/-- A row that fixes all but the X nibble accepts the words of those nibbles. -/
theorem accepts_F0FF {d : InstrDef} {w : Word} (hm : codingMask d.coding = 0xF0FF#16)
    (hv : codingValue d.coding &&& 0xF0FF#16 = nibble w 3 ++ 0#4 ++ kkField w) : d.accepts w = true := by
  simp [InstrDef.accepts, hm, hv, and_F0FF]

namespace EncodesItsRow

theorem cls : Statement .cls := by unfold Statement; decide
theorem ret : Statement .ret := by unfold Statement; decide
theorem sys (nnn : BitVec 12) : Statement (.sys nnn) :=
  accepts_F000 rfl (by simp only [encode, rowIndex, nibble3_wordNnn]; decide)
theorem jp (nnn : BitVec 12) : Statement (.jp nnn) :=
  accepts_F000 rfl (by simp only [encode, rowIndex, nibble3_wordNnn]; decide)
theorem call (nnn : BitVec 12) : Statement (.call nnn) :=
  accepts_F000 rfl (by simp only [encode, rowIndex, nibble3_wordNnn]; decide)
theorem seVxKk (x : RegIx) (kk : Byte) : Statement (.seVxKk x kk) :=
  accepts_F000 rfl (by simp only [encode, rowIndex, nibble3_wordXKk]; decide)
theorem sneVxKk (x : RegIx) (kk : Byte) : Statement (.sneVxKk x kk) :=
  accepts_F000 rfl (by simp only [encode, rowIndex, nibble3_wordXKk]; decide)
theorem seVxVy (x : RegIx) (y : RegIx) : Statement (.seVxVy x y) :=
  accepts_F00F rfl (by simp only [encode, rowIndex, nibble3_wordXYN, nField_wordXYN]; decide)
theorem ldVxKk (x : RegIx) (kk : Byte) : Statement (.ldVxKk x kk) :=
  accepts_F000 rfl (by simp only [encode, rowIndex, nibble3_wordXKk]; decide)
theorem addVxKk (x : RegIx) (kk : Byte) : Statement (.addVxKk x kk) :=
  accepts_F000 rfl (by simp only [encode, rowIndex, nibble3_wordXKk]; decide)
theorem ldVxVy (x : RegIx) (y : RegIx) : Statement (.ldVxVy x y) :=
  accepts_F00F rfl (by simp only [encode, rowIndex, nibble3_wordXYN, nField_wordXYN]; decide)
theorem orVxVy (x : RegIx) (y : RegIx) : Statement (.orVxVy x y) :=
  accepts_F00F rfl (by simp only [encode, rowIndex, nibble3_wordXYN, nField_wordXYN]; decide)
theorem andVxVy (x : RegIx) (y : RegIx) : Statement (.andVxVy x y) :=
  accepts_F00F rfl (by simp only [encode, rowIndex, nibble3_wordXYN, nField_wordXYN]; decide)
theorem xorVxVy (x : RegIx) (y : RegIx) : Statement (.xorVxVy x y) :=
  accepts_F00F rfl (by simp only [encode, rowIndex, nibble3_wordXYN, nField_wordXYN]; decide)
theorem addVxVy (x : RegIx) (y : RegIx) : Statement (.addVxVy x y) :=
  accepts_F00F rfl (by simp only [encode, rowIndex, nibble3_wordXYN, nField_wordXYN]; decide)
theorem subVxVy (x : RegIx) (y : RegIx) : Statement (.subVxVy x y) :=
  accepts_F00F rfl (by simp only [encode, rowIndex, nibble3_wordXYN, nField_wordXYN]; decide)
theorem shrVxVy (x : RegIx) (y : RegIx) : Statement (.shrVxVy x y) :=
  accepts_F00F rfl (by simp only [encode, rowIndex, nibble3_wordXYN, nField_wordXYN]; decide)
theorem subnVxVy (x : RegIx) (y : RegIx) : Statement (.subnVxVy x y) :=
  accepts_F00F rfl (by simp only [encode, rowIndex, nibble3_wordXYN, nField_wordXYN]; decide)
theorem shlVxVy (x : RegIx) (y : RegIx) : Statement (.shlVxVy x y) :=
  accepts_F00F rfl (by simp only [encode, rowIndex, nibble3_wordXYN, nField_wordXYN]; decide)
theorem sneVxVy (x : RegIx) (y : RegIx) : Statement (.sneVxVy x y) :=
  accepts_F00F rfl (by simp only [encode, rowIndex, nibble3_wordXYN, nField_wordXYN]; decide)
theorem ldINnn (nnn : BitVec 12) : Statement (.ldINnn nnn) :=
  accepts_F000 rfl (by simp only [encode, rowIndex, nibble3_wordNnn]; decide)
theorem jpV0 (nnn : BitVec 12) : Statement (.jpV0 nnn) :=
  accepts_F000 rfl (by simp only [encode, rowIndex, nibble3_wordNnn]; decide)
theorem rnd (x : RegIx) (kk : Byte) : Statement (.rnd x kk) :=
  accepts_F000 rfl (by simp only [encode, rowIndex, nibble3_wordXKk]; decide)
theorem drw (x : RegIx) (y : RegIx) (n : Nibble) : Statement (.drw x y n) :=
  accepts_F000 rfl (by simp only [encode, rowIndex, nibble3_wordXYN]; decide)
theorem skp (x : RegIx) : Statement (.skp x) :=
  accepts_F0FF rfl (by simp only [encode, rowIndex, nibble3_wordXKk, kkField_wordXKk]; decide)
theorem sknp (x : RegIx) : Statement (.sknp x) :=
  accepts_F0FF rfl (by simp only [encode, rowIndex, nibble3_wordXKk, kkField_wordXKk]; decide)
theorem ldVxDt (x : RegIx) : Statement (.ldVxDt x) :=
  accepts_F0FF rfl (by simp only [encode, rowIndex, nibble3_wordXKk, kkField_wordXKk]; decide)
theorem ldVxK (x : RegIx) : Statement (.ldVxK x) :=
  accepts_F0FF rfl (by simp only [encode, rowIndex, nibble3_wordXKk, kkField_wordXKk]; decide)
theorem ldDtVx (x : RegIx) : Statement (.ldDtVx x) :=
  accepts_F0FF rfl (by simp only [encode, rowIndex, nibble3_wordXKk, kkField_wordXKk]; decide)
theorem ldStVx (x : RegIx) : Statement (.ldStVx x) :=
  accepts_F0FF rfl (by simp only [encode, rowIndex, nibble3_wordXKk, kkField_wordXKk]; decide)
theorem addIVx (x : RegIx) : Statement (.addIVx x) :=
  accepts_F0FF rfl (by simp only [encode, rowIndex, nibble3_wordXKk, kkField_wordXKk]; decide)
theorem ldFVx (x : RegIx) : Statement (.ldFVx x) :=
  accepts_F0FF rfl (by simp only [encode, rowIndex, nibble3_wordXKk, kkField_wordXKk]; decide)
theorem ldBVx (x : RegIx) : Statement (.ldBVx x) :=
  accepts_F0FF rfl (by simp only [encode, rowIndex, nibble3_wordXKk, kkField_wordXKk]; decide)
theorem ldIndVx (x : RegIx) : Statement (.ldIndVx x) :=
  accepts_F0FF rfl (by simp only [encode, rowIndex, nibble3_wordXKk, kkField_wordXKk]; decide)
theorem ldVxInd (x : RegIx) : Statement (.ldVxInd x) :=
  accepts_F0FF rfl (by simp only [encode, rowIndex, nibble3_wordXKk, kkField_wordXKk]; decide)

end EncodesItsRow

end Sys2Proof.Laws
end

