-- ==== Sys2Proof/Laws/Step.lean ====
section
/-! SUPPORT. Everything one execute phase and one step can do, said once. -/

namespace Sys2Proof.Machine

/-! ## The execute phase -/

/-- Every instruction commits an effect. -/
theorem exec_eq_commit (i : Instr) (s : State) : ∃ e, exec i s = commit s e := by
  cases i <;> simp only [exec, execCls, execRet, execSys, execJp, execCall, execSeVxKk, execSneVxKk,
    execSeVxVy, execSneVxVy, execLdVxKk, execAddVxKk, execLdVxVy, execOrVxVy, execAndVxVy, execXorVxVy,
    execAddVxVy, execSubVxVy, execShrVxVy, execSubnVxVy, execShlVxVy, execLdINnn, execJpV0, execRnd, execDrw,
    execSkp, execSknp, execLdVxDt, execLdVxK, execLdDtVx, execLdStVx, execAddIVx, execLdFVx, execLdBVx,
    execLdIndVx, execLdVxInd] <;> exact ⟨_, rfl⟩

/-- Every instruction answers a next state (60_exceptions.md R121, R123). -/
theorem exec_next (i : Instr) (s : State) : ∃ t, exec i s = .next t := by
  obtain ⟨e, he⟩ := exec_eq_commit i s
  rw [he]
  cases e <;> exact ⟨_, rfl⟩

/-- The raises an instruction can make (R122). -/
def instrRaise : Raise → Bool
  | .sys _ => true
  | .guestError c _ => c == .stackUnderflow || c == .stackOverflow || c == .memBounds || c == .keyIndexRange
  | .decodeMiss _ => false
  | .tableWiring => false

/-- What an instruction can report: Ok, Waiting, or one of its raises, committed over the state it began in. -/
theorem exec_outcome {i : Instr} {s t : State} (h : exec i s = .next t) :
    ReportsOk s t ∨ t.report = some (s.reportOf .waiting .noCause none) ∨ ∃ r, instrRaise r = true ∧ t = s.commitRaise r := by
  cases i <;> simp only [exec] at h
  case ret => rw [execRet_cases] at h; split at h <;> cases h
              · exact .inr (.inr ⟨_, rfl, rfl⟩)
              · exact .inl rfl
  case sys => rw [execSys_eq] at h; cases h; exact .inr (.inr ⟨_, rfl, rfl⟩)
  case call => rw [execCall_eq] at h; split at h <;> cases h
               · exact .inr (.inr ⟨_, rfl, rfl⟩)
               · exact .inl rfl
  case seVxKk => rw [execSeVxKk_eq, State.skipIf_eq] at h; cases h; exact .inl rfl
  case sneVxKk => rw [execSneVxKk_eq, State.skipIf_eq] at h; cases h; exact .inl rfl
  case seVxVy => rw [execSeVxVy_eq, State.skipIf_eq] at h; cases h; exact .inl rfl
  case sneVxVy => rw [execSneVxVy_eq, State.skipIf_eq] at h; cases h; exact .inl rfl
  case ldVxKk => rw [execLdVxKk_eq] at h; cases h; exact .inl rfl
  case ldVxVy => rw [execLdVxVy_eq] at h; cases h; exact .inl rfl
  case ldVxDt => rw [execLdVxDt_eq] at h; cases h; exact .inl rfl
  case drw => rw [execDrw_eq] at h; unfold withRange at h; split at h <;> cases h
              · exact .inr (.inr ⟨_, rfl, rfl⟩)
              · exact .inl rfl
  case skp => rw [execSkp_eq] at h; split at h <;> cases h
              · exact .inr (.inr ⟨_, rfl, rfl⟩)
              · rw [State.skipIf_eq]; exact .inl rfl
  case sknp => rw [execSknp_eq] at h; split at h <;> cases h
               · exact .inr (.inr ⟨_, rfl, rfl⟩)
               · rw [State.skipIf_eq]; exact .inl rfl
  case ldVxK => rw [execLdVxK_eq] at h; split at h
                · split at h <;> cases h
                  · exact .inr (.inl rfl)
                  · exact .inl rfl
                · cases h; exact .inr (.inl rfl)
  case ldBVx => rw [execLdBVx_eq] at h; unfold withRange at h; split at h <;> cases h
                · exact .inr (.inr ⟨_, rfl, rfl⟩)
                · rw [State.storeBytes_eq]; exact .inl rfl
  case ldIndVx => rw [execLdIndVx_eq] at h; unfold withRange at h; split at h <;> cases h
                  · exact .inr (.inr ⟨_, rfl, rfl⟩)
                  · rw [State.storeBytes_eq, State.bumpIndex_eq]; exact .inl rfl
  case ldVxInd x => rw [execLdVxInd_eq] at h; unfold withRange at h; split at h <;> cases h
                    · exact .inr (.inr ⟨_, rfl, rfl⟩)
                    · rw [State.bumpIndex_eq]
                      obtain ⟨v, hv⟩ := State.loadRegs_eq s x
                      rw [hv]; exact .inl rfl
  all_goals (cases h; exact .inl rfl)

/-! ## The commit of a raise -/

/-- The report of a raise, under either policy (R121, R122). -/
theorem State.report_commitRaise (s : State) (r : Raise) :
    (s.commitRaise r).report = some
      (match r with
       | .decodeMiss w => s.reportOf .decodeMiss .decodeMiss (some w.toNat)
       | .sys n => s.reportOf .sys .sysUnsupported (some n)
       | .guestError c n => s.reportOf .guestError c (some n)
       | .tableWiring => s.reportOf .tableWiring .tableWiring none) := by
  cases r <;> simp only [State.commitRaise, State.applyMissPolicy, State.applyGuestPolicy] <;>
    first | rfl | (split <;> rfl)

/-- A raise changes no part but the halting fields and the report (R124). -/
theorem State.keeps_commitRaise (s : State) (r : Raise) : KeepsAllBut [.halting, .report] s (s.commitRaise r) := by
  intro p hp
  rw [State.commitRaise_eq]
  cases p <;> simp_all [Unchanged, State.getV, State.readMem]

/-- A guest error does what R123 says under either policy. -/
theorem State.raises_guestError (s : State) (c : Cause) (n : Nat) :
    RaisesGuestError c n s (s.commitRaise (.guestError c n)) :=
  ⟨State.report_commitRaise s _, State.keeps_commitRaise s _,
    fun h => by simp [State.commitRaise, State.applyGuestPolicy, h, Unchanged],
    fun h => by simp [State.commitRaise, State.applyGuestPolicy, h]⟩

/-! ## The step -/

/-- The step at a word that decodes. -/
theorem step_of_decode {s : State} {w : Word} {i : Instr} (hl : s.cfg.legal = true) (hh : s.halted = false)
    (hf : s.fetchWord = some w) (hd : decode w = .ok i) :
    step s = exec i (s.latchInput.applyTick.advance w) := by
  simp [step, hl, hh, hf, hd]

/-- The step by cases, in the order of 60_exceptions.md R128. -/
theorem step_cases (s : State) :
    (s.cfg.legal = false ∧ step s = .refused .illegalConfig) ∨
    (s.cfg.legal = true ∧ s.halted = true ∧ step s = .next s.latchInput.commitHalted) ∨
    (s.cfg.legal = true ∧ s.halted = false ∧ s.fetchWord = none ∧
      step s = .next s.latchInput.applyTick.commitFetchBounds) ∨
    (∃ w e, s.cfg.legal = true ∧ s.halted = false ∧ s.fetchWord = some w ∧ decode w = .error e ∧
      step s = commit (s.latchInput.applyTick.advance w) (.raise (.decodeMiss w))) ∨
    (∃ w i, s.cfg.legal = true ∧ s.halted = false ∧ s.fetchWord = some w ∧ decode w = .ok i ∧
      step s = exec i (s.latchInput.applyTick.advance w)) := by
  unfold step
  by_cases hl : s.cfg.legal = false
  · exact .inl ⟨hl, by simp [hl]⟩
  · have hl' : s.cfg.legal = true := by simpa using hl
    by_cases hh : s.halted = true
    · exact .inr (.inl ⟨hl', hh, by simp [hl', hh]⟩)
    · have hh' : s.halted = false := by simpa using hh
      cases hf : s.fetchWord with
      | none => exact .inr (.inr (.inl ⟨hl', hh', rfl, by simp [hl', hh', hf]⟩))
      | some w =>
        cases hd : decode w with
        | error e => exact .inr (.inr (.inr (.inl ⟨w, e, hl', hh', rfl, hd, by simp [hl', hh', hf, hd]⟩)))
        | ok i => exact .inr (.inr (.inr (.inr ⟨w, i, hl', hh', rfl, hd, by simp [hl', hh', hf, hd]⟩)))

end Sys2Proof.Machine
end

