-- ==== Sys2Proof/Tests/Slice0.lean ====
section
/-! SUPPORT. The model's own tests. Expected results are the vectors of 95_test_vectors.md (their ids are in the
names) or written out from the rule a comment names. After the tests: for every statement that has hypotheses, a
concrete state and operands that meet them together, one at each side of a boundary. -/

namespace Sys2Proof.Tests

open Sys2Proof.Machine

/-! ## WellFormed: each check refuses an ill-formed term -/

theorem test_wellFormed_refuses_sys_0E0 : (Instr.sys 0x0E0).wellFormed = false := by decide
theorem test_wellFormed_refuses_sys_0EE : (Instr.sys 0x0EE).wellFormed = false := by decide
theorem test_wellFormed_takes_sys_0E1 : (Instr.sys 0x0E1).wellFormed = true := by decide

/-! ## Decode: words written out from the `word` column of 30_encoding.md R59, every constructor once -/

theorem test_decode_display_T1_T13_T14 :
    decode 0x00E0 = .ok .cls ∧ decode 0xD12F = .ok (.drw 1 2 15) ∧
    decode 0xE19E = .ok (.skp 1) ∧ decode 0xE1A1 = .ok (.sknp 1) ∧ decode 0xF30A = .ok (.ldVxK 3) := by decide

theorem test_decode_control_T2_T3_T5_T9_T12 :
    decode 0x00EE = .ok .ret ∧ decode 0x00E1 = .ok (.sys 0x0E1) ∧ decode 0x1FFF = .ok (.jp 0xFFF) ∧
    decode 0x2300 = .ok (.call 0x300) ∧ decode 0xB123 = .ok (.jpV0 0x123) ∧
    decode 0x3207 = .ok (.seVxKk 2 0x07) ∧ decode 0x4307 = .ok (.sneVxKk 3 0x07) ∧
    decode 0x5120 = .ok (.seVxVy 1 2) ∧ decode 0x9AB0 = .ok (.sneVxVy 10 11) := by decide

theorem test_decode_alu_T8 :
    decode 0x7305 = .ok (.addVxKk 3 0x05) ∧ decode 0x8451 = .ok (.orVxVy 4 5) ∧
    decode 0x8452 = .ok (.andVxVy 4 5) ∧ decode 0x8453 = .ok (.xorVxVy 4 5) ∧
    decode 0x8014 = .ok (.addVxVy 0 1) ∧ decode 0x8015 = .ok (.subVxVy 0 1) ∧
    decode 0x8016 = .ok (.shrVxVy 0 1) ∧ decode 0x8017 = .ok (.subnVxVy 0 1) ∧
    decode 0x801E = .ok (.shlVxVy 0 1) ∧ decode 0xF21E = .ok (.addIVx 2) ∧
    decode 0xC30F = .ok (.rnd 3 0x0F) := by decide

theorem test_decode_loads_T11_T17_T18_T19 :
    decode 0x6A42 = .ok (.ldVxKk 10 0x42) ∧ decode 0x8450 = .ok (.ldVxVy 4 5) ∧
    decode 0xABCD = .ok (.ldINnn 0xBCD) ∧ decode 0xF807 = .ok (.ldVxDt 8) ∧
    decode 0xF815 = .ok (.ldDtVx 8) ∧ decode 0xF518 = .ok (.ldStVx 5) ∧
    decode 0xF229 = .ok (.ldFVx 2) ∧ decode 0xFA33 = .ok (.ldBVx 10) ∧
    decode 0xF255 = .ok (.ldIndVx 2) ∧ decode 0xF165 = .ok (.ldVxInd 1) := by decide

theorem test_decode_miss_T6_T7_T10_T15_T16 :
    decode 0x5121 = .error (.miss 0x5121) ∧ decode 0x8008 = .error (.miss 0x8008) ∧
    decode 0x9AB1 = .error (.miss 0x9AB1) ∧ decode 0xE000 = .error (.miss 0xE000) ∧
    decode 0xE19F = .error (.miss 0xE19F) ∧ decode 0xF008 = .error (.miss 0xF008) ∧
    decode 0xFFFF = .error (.miss 0xFFFF) := by decide

theorem test_operands_S13_T17 :
    decodeOperands 0x8450 = some ⟨.load, .register 4, .register 5, .unused⟩ ∧
    decodeOperands 0xF165 = some ⟨.fetch, .unused, .register 1, .unused⟩ := by decide

theorem test_masks_of_rows_17_24_35 :
    codingMask (instrTable[16]).coding = 0xF00F ∧ codingValue (instrTable[16]).coding = 0x8006 ∧
    codingMask (instrTable[23]).coding = 0xF000 ∧ codingValue (instrTable[34]).coding = 0xF065 := by decide

theorem test_decodeTableWord : decodeTableWord 16 0x1234 = some (.jp 0x234) := by decide

theorem test_decodeBytes_truncated : decodeBytes [0x12] = .error .truncated := by decide

theorem test_encode_words :
    encode (.addVxVy 0 1) = 0x8014 ∧ encode (.drw 13 10 1) = 0xDDA1 ∧ encode (.ldBVx 10) = 0xFA33 := by decide

theorem test_disassemble_R67 :
    disassemble (.drw 10 11 1) = "DRW VA, VB, 1" ∧ disassemble (.ldVxKk 0 5) = "LD V0, 0x05" ∧
    disassemble (.ldIndVx 2) = "LD [I], V2" := by decide

/-! ## One step: a word at pc of a small state, with the step's inputs -/

/-- No tick, no key, draw 0. -/
def quiet : StepInput := { tick := false, keys := 0, rnd := 0 }

/-- The state after one step of a word placed at pc, under given inputs. -/
def stepWith (inp : StepInput) (s : State) (w : Nat) : Option State :=
  match step ({ s with pending := [inp] }.withFetchWord 16 w) with
  | .next t => some t
  | .fault _ => none
  | .refused _ => none

/-- One property of the state after one quiet step. -/
def after (s : State) (w : Nat) (p : State → Bool) : Bool := (stepWith quiet s w).any p

/-- The reset state with registers set. -/
def withRegs (l : List (RegIx × Byte)) : State := l.foldl (fun s p => s.setV p.1 p.2) State.reset

theorem test_reset_word_runs : after State.reset 0x6A42 (fun t => t.getV 10 == 0x42 && t.pc == 0x202) = true := by
  decide

theorem test_add_S1 : after (withRegs [(0, 0xFF), (1, 0x01)]) 0x8014
    (fun t => t.getV 0 == 0 && t.getV 15 == 1 && t.pc == 0x202) = true := by decide
theorem test_add_vf_dest_A3 : after (withRegs [(15, 0xFF), (1, 0x01)]) 0x8F14 (fun t => t.getV 15 == 1) = true := by
  decide
theorem test_addKk_A4 : after (withRegs [(15, 0x01)]) 0x7FFF (fun t => t.getV 15 == 0) = true := by decide
theorem test_addKk_A5 : after (withRegs [(3, 0xFE), (15, 7)]) 0x7305
    (fun t => t.getV 3 == 3 && t.getV 15 == 7) = true := by decide
theorem test_addI_A6 : after (((withRegs [(0, 2), (15, 7)])).setI 0xFFFF) 0xF01E
    (fun t => t.i == 1 && t.getV 15 == 7) = true := by decide
theorem test_addI_A7 : after ((withRegs [(2, 2)]).setI 0x0FFF) 0xF21E (fun t => t.i == 0x1001) = true := by decide
theorem test_sub_S3 : after (withRegs [(0, 5), (1, 10)]) 0x8015
    (fun t => t.getV 0 == 0xFB && t.getV 15 == 0) = true := by decide
theorem test_sub_A8 : after (withRegs [(0, 5), (1, 5)]) 0x8015
    (fun t => t.getV 0 == 0 && t.getV 15 == 1) = true := by decide
theorem test_subn_A10 : after (withRegs [(0, 5), (1, 10)]) 0x8017
    (fun t => t.getV 0 == 5 && t.getV 15 == 1) = true := by decide
theorem test_subn_A11 : after (withRegs [(0, 10), (1, 5)]) 0x8017
    (fun t => t.getV 0 == 0xFB && t.getV 15 == 0) = true := by decide
theorem test_or_A12 : after (withRegs [(4, 0x0F), (5, 0xF0), (15, 1)]) 0x8451
    (fun t => t.getV 4 == 0xFF && t.getV 15 == 1) = true := by decide
theorem test_and_A13 : after (withRegs [(4, 0x3C), (5, 0x0F)]) 0x8452 (fun t => t.getV 4 == 0x0C) = true := by
  decide
theorem test_xor_A14 : after (withRegs [(4, 0xFF), (5, 0x0F)]) 0x8453 (fun t => t.getV 4 == 0xF0) = true := by
  decide
theorem test_shr_A16 : after (withRegs [(1, 5)]) 0x8016
    (fun t => t.getV 0 == 2 && t.getV 15 == 1 && t.getV 1 == 5) = true := by decide
theorem test_shr_A18 : after (withRegs [(0, 2), (15, 3)]) 0x8F06 (fun t => t.getV 15 == 0) = true := by decide
theorem test_shl_A21 : after (withRegs [(2, 0x80), (1, 0x33)]) 0x812E
    (fun t => t.getV 1 == 0 && t.getV 15 == 1) = true := by decide
theorem test_shl_A19 : after (withRegs [(1, 0x81)]) 0x801E
    (fun t => t.getV 0 == 2 && t.getV 15 == 1) = true := by decide
theorem test_rnd_A22 : (stepWith { quiet with rnd := 0x12345678 } State.reset 0xC30F).any
    (fun t => t.getV 3 == 8) = true := by decide

theorem test_ldI_L3 : after (State.reset.setI 0x1234) 0xA2F0 (fun t => t.i == 0x02F0) = true := by decide
theorem test_ldVxVy_L2 : after (withRegs [(1, 0x99)]) 0x8010 (fun t => t.getV 0 == 0x99) = true := by decide
theorem test_ldVxDt_L5 : (stepWith { quiet with tick := true } (State.reset.setDt 1) 0xF007).any
    (fun t => t.dt == 0 && t.getV 0 == 0) = true := by decide
theorem test_ldDt_L6 : after (withRegs [(5, 0x3C)]) 0xF515 (fun t => t.dt == 0x3C) = true := by decide
theorem test_ldSt_L7 : (stepWith { quiet with tick := true } ((withRegs [(0, 9)]).setSt 4) 0xF018).any
    (fun t => t.st == 9) = true := by decide
theorem test_ldF_L8 : after (withRegs [(2, 0x0A)]) 0xF229 (fun t => t.i == 0x0032) = true := by decide
theorem test_ldF_L10 : after (withRegs [(0, 0xFF)]) 0xF029 (fun t => t.i == 0x04FB) = true := by decide
theorem test_ldB_S4 : after ((withRegs [(0, 255)]).setI 0x300) 0xF033
    (fun t => t.readMem 0x300 == 2 && t.readMem 0x301 == 5 && t.readMem 0x302 == 5 && t.i == 0x300) = true := by
  decide
theorem test_ldB_L15 : after ((withRegs [(0, 1)]).setI 0x1FFE) 0xF033
    (fun t => t.halted && t.haltCause.code == 5 && t.pc == 0x202 && t.readMem 0x1FFF == 0 &&
      t.report == some ⟨.guestError, .memBounds, some 0x200, some 0xF033, some 0x2000⟩) = true := by decide
theorem test_stash_L16 : after ((withRegs [(0, 0x11), (1, 0x22), (2, 0x33)]).setI 0x400) 0xF255
    (fun t => t.readMem 0x400 == 0x11 && t.readMem 0x402 == 0x33 && t.readMem 0x403 == 0 && t.i == 0x400) = true := by
  decide
theorem test_stash_L17 :
    after { (withRegs [(0, 0xAB), (1, 0xCD)]).setI 0x400 with
        cfg := { Config.default with loadStoreIncrementsI := true } } 0xF055
      (fun t => t.readMem 0x400 == 0xAB && t.readMem 0x401 == 0 && t.i == 0x401) = true := by decide
theorem test_fetch_R102 : after ((State.reset.storeBytes 0x400 [0x11, 0x22, 0x33, 0x44]).setI 0x400) 0xF265
    (fun t => t.getV 0 == 0x11 && t.getV 2 == 0x33 && t.getV 3 == 0 && t.i == 0x400) = true := by decide
theorem test_fetch_L20 : after (State.reset.setI 0x1FF8) 0xFF65
    (fun t => t.haltCause.code == 5 && t.report.any (fun r => r.info == some 0x2000)) = true := by decide

theorem test_jp_S6 : after State.reset 0x1234 (fun t => t.pc == 0x234) = true := by decide
theorem test_jpV0_K8 : after (withRegs [(0, 0xFF)]) 0xBFFF (fun t => t.pc == 0x10FE) = true := by decide
theorem test_call_K9 : after State.reset 0x2300 (fun t => t.stack == [0x202] && t.pc == 0x300) = true := by decide
theorem test_call_K10 : after { State.reset with stack := List.replicate 16 0x202 } 0x2200
    (fun t => t.stack.length == 16 && t.pc == 0x202 && t.haltCause.code == 4) = true := by decide
theorem test_ret_S7 : after { State.reset with stack := [0x111, 0x202] } 0x00EE
    (fun t => t.stack == [0x111] && t.pc == 0x202) = true := by decide
theorem test_ret_K13 : (stepWith { quiet with tick := true }
    { State.reset with dt := 5, cfg := { Config.default with guestErrorPolicy := .proceed } } 0x00EE).any
    (fun t => t.dt == 4 && !t.halted && t.pc == 0x202) = true := by decide
theorem test_seKk_K1 : after (withRegs [(2, 7)]) 0x3207 (fun t => t.pc == 0x204) = true := by decide
theorem test_sneKk_K3 : after (withRegs [(2, 7)]) 0x4207 (fun t => t.pc == 0x202) = true := by decide
theorem test_seVy_S8 : after (withRegs [(0, 3), (1, 3)]) 0x5010 (fun t => t.pc == 0x204) = true := by decide
theorem test_sneVy_K4 : after (withRegs [(0, 1), (1, 2)]) 0x9010 (fun t => t.pc == 0x204) = true := by decide
theorem test_sys_K14 : after State.reset 0x0123
    (fun t => t.report == some ⟨.sys, .sysUnsupported, some 0x200, some 0x0123, some 0x123⟩ &&
      t.pc == 0x202 && !t.halted) = true := by decide
theorem test_sys_K15 : after { State.reset with cfg := { Config.default with missPolicy := .halt } } 0x0000
    (fun t => t.halted && t.haltCause.code == 2 && t.pc == 0x202) = true := by decide

theorem test_cls_R115 : after { State.reset with fb := FrameBuffer.flip State.reset.fb 3 5 } 0x00E0
    (fun t => !FrameBuffer.pixel t.fb 3 5) = true := by decide
theorem test_drw_S5 : after ((State.reset.writeMem 0x300 0x80).setI 0x300) 0xD011
    (fun t => FrameBuffer.pixel t.fb 0 0 && !FrameBuffer.pixel t.fb 0 1 && t.getV 15 == 0) = true := by decide
theorem test_drw_V7_hit :
    after { ((withRegs [(1, 64), (2, 40)]).writeMem 0x300 0xC0).setI 0x300 with
        fb := FrameBuffer.flip State.reset.fb 8 0 } 0xD121
      (fun t => !FrameBuffer.pixel t.fb 8 0 && FrameBuffer.pixel t.fb 8 1 && t.getV 15 == 1) = true := by decide
theorem test_skp_V8 : (stepWith { quiet with keys := 0x0020 } (withRegs [(1, 5)]) 0xE19E).any
    (fun t => t.pc == 0x204) = true := by decide
theorem test_skp_V11 : after (withRegs [(1, 0x10)]) 0xE19E
    (fun t => t.halted && t.haltCause.code == 7 && t.pc == 0x202) = true := by decide
theorem test_sknp_V9 : (stepWith { quiet with keys := 0x0020 } (withRegs [(1, 5)]) 0xE1A1).any
    (fun t => t.pc == 0x202) = true := by decide
theorem test_waitKey_V12_first : after State.reset 0xF30A
    (fun t => t.wkActive && t.pc == 0x200 && t.report.any (fun r => r.kind == .waiting)) = true := by decide
theorem test_waitKey_P6_third : (stepWith { quiet with keys := 0x0290 }
    { State.reset with wkActive := true, wkPrev := 0x0080 } 0xF30A).any
    (fun t => t.getV 3 == 4 && !t.wkActive && t.pc == 0x202) = true := by decide

theorem test_miss_E6 : after State.reset 0x5121
    (fun t => t.report == some ⟨.decodeMiss, .decodeMiss, some 0x200, some 0x5121, some 0x5121⟩ &&
      t.pc == 0x202 && !t.halted) = true := by decide
theorem test_tick_E2 : (stepWith { quiet with tick := true } { State.reset with dt := 2, st := 1 } 0x6000).any
    (fun t => t.dt == 1 && t.st == 0) = true := by decide
/-- Vector E4 before its second step: pc at the last byte of a 0x1000-byte memory. -/
def stateE4 : State :=
  { State.reset with
    pc := 0xFFF
    dt := 2
    cfg := { Config.default with memSize := 0x1000 }
    pending := [{ quiet with tick := true }] }

theorem test_fetch_bounds_E4 :
    (match step stateE4 with
     | .next t => t.dt == 1 && t.pc == 0xFFF && t.halted && t.haltCause.code == 6
     | .fault _ => false
     | .refused _ => false) = true := by decide

/-! ## The image and the host's view (70_reset_and_hazards.md R137, 10_state.md R27) -/

theorem test_loadImage : (State.reset.loadImage [0x12, 0x34]).any
    (fun t => t.readMem 0x200 == 0x12 && t.fetchWord == some 0x1234 && t.readMem 0x4F == 0x80) = true := by decide
theorem test_loadImage_too_long :
    (({ State.reset with cfg := { Config.default with memSize := 0x202 } }).loadImage [1, 2, 3]).isNone = true := by
  decide
theorem test_fbByte : State.fbByte { State.reset with fb := FrameBuffer.flip State.reset.fb 1 2 } 66 = 1 := by decide
theorem test_illegal_config :
    (match step { State.reset with cfg := { Config.default with memSize := 0x200 } } with
     | .refused .illegalConfig => true
     | .refused (.notModelled _) => false
     | .next _ => false
     | .fault _ => false) = true := by decide

/-! ## Pencil checks of the double draw (44_display_input.md R116, log 18): the second draw of a sprite over a set
pixel finds it cleared, so VF ends 0 -/

theorem test_drw_twice_over_a_set_pixel :
    (stepWith quiet { (State.reset.writeMem 0x300 0x80).setI 0x300 with
        fb := FrameBuffer.flip State.reset.fb 0 0 } 0xD011).any (fun t => t.getV 15 == 1 &&
      (stepWith quiet t 0xD011).any (fun u => u.getV 15 == 0 && FrameBuffer.pixel u.fb 0 0)) = true := by decide

/-! # Witnesses of the statements' hypotheses -/


/-! ## Encoding -/

theorem witness_DecodeOfEncodeIsTheInstruction :
    (Instr.sys 0x0E1).wellFormed = true ∧ (Instr.drw 15 0 15).wellFormed = true := by decide

theorem witness_EncodeOfDecodeIsTheWord : decode 0x00EF = .ok (.sys 0x0EF) := by decide

theorem witness_DecodeMissWordsExactly :
    (IsMissWord 0x5001 ∧ IsMissWord 0x8008 ∧ IsMissWord 0x800D ∧ IsMissWord 0x800F ∧ IsMissWord 0x9FFF ∧
      IsMissWord 0xE09D ∧ IsMissWord 0xF066) ∧
    (¬ IsMissWord 0x5FF0 ∧ ¬ IsMissWord 0x8007 ∧ ¬ IsMissWord 0x800E ∧ ¬ IsMissWord 0x9000 ∧
      ¬ IsMissWord 0xE09E ∧ ¬ IsMissWord 0xF065) := by
  refine ⟨⟨?_, ?_, ?_, ?_, ?_, ?_, ?_⟩, ?_, ?_, ?_, ?_, ?_, ?_⟩ <;> unfold IsMissWord <;> decide

theorem witness_OnlyRow3Overlaps :
    (instrTable[0]).accepts 0x00E0 = true ∧ (instrTable[1]).accepts 0x00EE = true ∧
    (instrTable[2]).accepts 0x00E0 = true ∧ (instrTable[2]).accepts 0x00EE = true := by decide

theorem witness_EveryRowIsReachable :
    (instrTable[0]? = some (instrTable[0])) ∧ (instrTable[34]? = some (instrTable[34])) := ⟨rfl, rfl⟩

/-- A word of each row's mask and value, as the `RowDecodes` of the statements have them. -/
theorem witness_masks_F00F :
    (0x8F14 : Word) &&& 0xF00F = 0x8004 ∧ (0x8F15 : Word) &&& 0xF00F = 0x8005 ∧
    (0x8F17 : Word) &&& 0xF00F = 0x8007 ∧ (0x8F11 : Word) &&& 0xF00F = 0x8001 ∧
    (0x8F12 : Word) &&& 0xF00F = 0x8002 ∧ (0x8F13 : Word) &&& 0xF00F = 0x8003 ∧
    (0x8F16 : Word) &&& 0xF00F = 0x8006 ∧ (0x8F1E : Word) &&& 0xF00F = 0x800E ∧
    (0x8F10 : Word) &&& 0xF00F = 0x8000 ∧ (0x5F10 : Word) &&& 0xF00F = 0x5000 ∧
    (0x9F10 : Word) &&& 0xF00F = 0x9000 := by decide

theorem witness_masks_F000 :
    (0x1200 : Word) &&& 0xF000 = 0x1000 ∧ (0x2300 : Word) &&& 0xF000 = 0x2000 ∧
    (0x3207 : Word) &&& 0xF000 = 0x3000 ∧ (0x4207 : Word) &&& 0xF000 = 0x4000 ∧
    (0x6A42 : Word) &&& 0xF000 = 0x6000 ∧ (0x7305 : Word) &&& 0xF000 = 0x7000 ∧
    (0xA2F0 : Word) &&& 0xF000 = 0xA000 ∧ (0xB300 : Word) &&& 0xF000 = 0xB000 ∧
    (0xC30F : Word) &&& 0xF000 = 0xC000 ∧ (0xD123 : Word) &&& 0xF000 = 0xD000 := by decide

theorem witness_masks_F0FF_FFFF :
    (0xE19E : Word) &&& 0xF0FF = 0xE09E ∧ (0xE1A1 : Word) &&& 0xF0FF = 0xE0A1 ∧
    (0xF507 : Word) &&& 0xF0FF = 0xF007 ∧ (0xF30A : Word) &&& 0xF0FF = 0xF00A ∧
    (0xF515 : Word) &&& 0xF0FF = 0xF015 ∧ (0xF518 : Word) &&& 0xF0FF = 0xF018 ∧
    (0xF21E : Word) &&& 0xF0FF = 0xF01E ∧ (0xF229 : Word) &&& 0xF0FF = 0xF029 ∧
    (0xFA33 : Word) &&& 0xF0FF = 0xF033 ∧ (0xF255 : Word) &&& 0xF0FF = 0xF055 ∧
    (0xF165 : Word) &&& 0xF0FF = 0xF065 ∧ (0x00E0 : Word) &&& 0xFFFF = 0x00E0 ∧
    (0x00EE : Word) &&& 0xFFFF = 0x00EE := by decide

theorem witness_SysReportsAndDoesNothing_words :
    (0x0000 : Word) &&& 0xF000 = 0 ∧ (0x0000 : Word) ≠ 0x00E0 ∧ (0x0000 : Word) ≠ 0x00EE ∧
    (0x0FFF : Word) &&& 0xF000 = 0 ∧ (0x0FFF : Word) ≠ 0x00E0 ∧ (0x0FFF : Word) ≠ 0x00EE := by decide

/-! ## States -/

/-- The reset state with a word at pc, and one coming step with a tick. -/
def placed (w : Nat) : State :=
  { State.reset.withFetchWord 16 w with pending := [{ quiet with tick := true }] }

/-- A small memory: 0x202 bytes, the last word at 0x200. -/
def smallConfig : Config := { Config.default with memSize := 0x202 }

/-- Running, legal, and this word at pc. -/
def runs (s : State) (w : Word) : Prop := s.cfg.legal = true ∧ s.halted = false ∧ s.fetchWord = some w

theorem witness_placed :
    runs (placed 0x6A42) 0x6A42 ∧ decode 0x6A42 = .ok (.ldVxKk 10 0x42) := by unfold runs; decide

/-! ## Registers -/

/-- The clause `x ≠ 15` of the flag writers, and `r ≠ x`, `r ≠ 15` of their frames. -/
theorem witness_flag_writers : (14 : RegIx) ≠ 15 ∧ (0 : RegIx) ≠ 14 ∧ (0 : RegIx) ≠ 15 := by decide

/-! ## Loads and stores -/

theorem witness_LoadDelayTimerReadsAfterTick :
    runs { placed 0xF007 with dt := 1 } 0xF007 ∧ decode 0xF007 = .ok (.ldVxDt 0) ∧
    ({ placed 0xF007 with dt := 1 } : State).nextInput.tick = true ∧
    ({ placed 0xF007 with dt := 1 } : State).dt ≠ 0 := by unfold runs; decide

theorem witness_LoadTimersWriteTheRegister :
    runs (placed 0xF515) 0xF515 ∧ decode 0xF515 = .ok (.ldDtVx 5) ∧
    runs (placed 0xF518) 0xF518 ∧ decode 0xF518 = .ok (.ldStVx 5) := by unfold runs; decide

theorem witness_BcdStoresThreeDigits :
    (State.reset.setI 0x1FFD).i.toNat + 2 < State.reset.cfg.memSize ∧
    State.reset.cfg.memSize ≤ (State.reset.setI 0x1FFE).i.toNat + 2 := by decide

theorem witness_StashStoresRegisters_FetchLoadsRegisters :
    (State.reset.setI 0x1FF0).i.toNat + (15 : RegIx).val < State.reset.cfg.memSize ∧
    State.reset.cfg.memSize ≤ (State.reset.setI 0x1FF1).i.toNat + (15 : RegIx).val ∧
    (15 : RegIx) ≤ 15 ∧ (0 : RegIx) < 15 := by decide

theorem witness_StoredBytesAreFetchedNext :
    (State.reset.setI 0x200).i = (State.reset.setI 0x200).pc ∧
    (State.reset.setI 0x200).i.toNat + 2 < (State.reset.setI 0x200).cfg.memSize := by decide

/-! ## Control transfer -/

/-- Room at a depth of 15, none at 16, and room at any depth when the stack is unbounded. -/
theorem witness_CallPushesTheReturnAddress :
    (∀ d, Config.default.stackDepth = some d → (List.replicate 15 (0x202 : Word)).length < d) ∧
    (Config.default.stackDepth = some 16 ∧ 16 ≤ (List.replicate 16 (0x202 : Word)).length) ∧
    (∀ d, ({ Config.default with stackDepth := none } : Config).stackDepth = some d →
      (List.replicate 40 (0x202 : Word)).length < d) := by
  refine ⟨fun d h => ?_, by decide, fun d h => nomatch h⟩
  obtain rfl : 16 = d := Option.some.inj h
  decide

theorem witness_RetPopsTheReturnAddress :
    ({ State.reset with stack := [0x111, 0x202] } : State).stack = [0x111] ++ [0x202] ∧ State.reset.stack = [] := by
  decide

/-- A CALL of 0x300, where a RET stands. -/
def callState : State := State.reset.storeBytes 0x300 [0x00, 0xEE]

theorem witness_CallThenRetRestoresPc :
    (∀ d, callState.cfg.stackDepth = some d → callState.stack.length < d) ∧ callState.cfg.legal = true ∧
    callState.halted = false ∧
    ∃ t, exec (.call 0x300) callState = .next t ∧ t.fetchWord = some 0x00EE ∧ decode 0x00EE = .ok .ret := by
  refine ⟨fun d h => ?_, by decide, by decide, _, rfl, by decide, by decide⟩
  obtain rfl : 16 = d := Option.some.inj h
  decide

/-! ## Policies -/

theorem witness_policies :
    Config.default.missPolicy = .skip ∧ ({ Config.default with missPolicy := .halt } : Config).missPolicy = .halt ∧
    Config.default.guestErrorPolicy = .halt ∧
    ({ Config.default with guestErrorPolicy := .proceed } : Config).guestErrorPolicy = .proceed := by decide

/-! ## Display and keys -/

/-- I at 0x300, where a sprite row with its leftmost bit stands; pixel (0, 0) is set. -/
def drawState : State :=
  { (State.reset.writeMem 0x300 0x80).setI 0x300 with fb := FrameBuffer.flip State.reset.fb 0 0 }

theorem witness_DrwXorsTheSprite_ranges :
    (State.reset.setI 0x1FFC).i.toNat + (4 : Nibble).toNat - 1 < State.reset.cfg.memSize ∧
    State.reset.cfg.memSize ≤ (State.reset.setI 0x1FFC).i.toNat + (5 : Nibble).toNat - 1 ∧ (5 : Nibble) ≠ 0 := by
  decide

/-- The in-range clause with n = 0, at an I outside memory: no row is read. -/
theorem witness_DrwXorsTheSprite_noRows :
    ((0 : Nibble) = 0 ∨
      (State.reset.setI 0xFFFF).i.toNat + (0 : Nibble).toNat - 1 < State.reset.cfg.memSize) ∧
    State.reset.cfg.memSize ≤ (State.reset.setI 0xFFFF).i.toNat := by decide

/-- (0, 0) is covered and set; (0, 1) is not covered. -/
theorem witness_DrwXorsTheSprite_pixels :
    SpriteCovers drawState (drawState.getV 1).toNat (drawState.getV 2).toNat (1 : Nibble).toNat 0 0 ∧
    FrameBuffer.pixel drawState.fb 0 0 = true ∧
    ¬ SpriteCovers drawState (drawState.getV 1).toNat (drawState.getV 2).toNat (1 : Nibble).toNat 0 1 := by
  refine ⟨⟨0, 0, by decide⟩, by decide, ?_⟩
  rintro ⟨r, c, hr, hc, -, h, hb⟩
  obtain rfl : r = 0 := by simpa using hr
  obtain rfl : c = 1 := by
    have h0 : (drawState.getV 1).toNat = 0 := by decide
    rw [h0] at h; simp at h; omega
  exact absurd hb (by decide)

/-- The same sprite on a clear screen: (0, 0) is covered and not set, and the sprite has a set bit. -/
theorem witness_DrwTwiceRestoresTheScreen :
    (1 : RegIx) ≠ 15 ∧ (2 : RegIx) ≠ 15 ∧
    drawState.i.toNat + (1 : Nibble).toNat - 1 < drawState.cfg.memSize ∧
    SpriteCovers { drawState with fb := FrameBuffer.clear } (drawState.getV 1).toNat (drawState.getV 2).toNat
      (1 : Nibble).toNat 0 0 ∧
    FrameBuffer.pixel ({ drawState with fb := FrameBuffer.clear } : State).fb 0 0 = false ∧
    SpriteHasBit { drawState with fb := FrameBuffer.clear } (1 : Nibble).toNat :=
  ⟨by decide, by decide, by decide, ⟨0, 0, by decide⟩, by decide, ⟨0, 0, by decide⟩⟩

theorem witness_KeySkipsReadTheSnapshot :
    ((State.reset.setV 1 15).getV 1).toNat < 16 ∧ 16 ≤ ((State.reset.setV 1 16).getV 1).toNat := by decide

/-- Keys 4, 7 and 9 down after 7: 4 is the lowest new press. The same keys as before: none. -/
theorem witness_WaitKeyCompletesOnANewPress :
    State.reset.wkActive = false ∧
    (∀ k, k < 16 → ¬ ((0x0080 : KeySet).getLsbD k = true ∧ (0x0080 : KeySet).getLsbD k = false)) ∧
    ((0x0290 : KeySet).getLsbD (4 : RegIx).val = true ∧ (0x0080 : KeySet).getLsbD (4 : RegIx).val = false ∧
      ∀ j : RegIx, j < 4 →
        ¬ ((0x0290 : KeySet).getLsbD j.val = true ∧ (0x0080 : KeySet).getLsbD j.val = false)) := by
  refine ⟨by decide, fun k _ h => ?_, by decide⟩
  rw [h.1] at h
  exact absurd h.2 (by decide)

/-! ## The step -/

theorem witness_TickCountsDownAndStopsAtZero_running :
    (∃ t, step (placed 0x6A42) = .next t) ∧ (placed 0x6A42).halted = false ∧
    ∀ w x, (placed 0x6A42).fetchWord = some w → decode w ≠ .ok (.ldDtVx x) ∧ decode w ≠ .ok (.ldStVx x) := by
  refine ⟨⟨_, rfl⟩, by decide, fun w x h => ?_⟩
  obtain rfl : 0x6A42 = w := Option.some.inj (witness_placed.1.2.2.symm.trans h)
  rw [witness_placed.2]
  simp

theorem witness_TickCountsDownAndStopsAtZero_halted :
    ∃ t, step { placed 0x6A42 with halted := true } = .next t := ⟨_, rfl⟩

theorem witness_StepOfAMissFollowsThePolicy :
    runs (placed 0x5121) 0x5121 ∧ IsMissWord 0x5121 ∧
    runs { placed 0x5121 with cfg := { Config.default with missPolicy := .halt } } 0x5121 := by
  unfold runs IsMissWord; decide

/-- At the last byte, and past the last: both are beyond a whole word. -/
theorem witness_FetchBeyondMemoryHalts :
    stateE4.cfg.legal = true ∧ stateE4.halted = false ∧ stateE4.cfg.memSize ≤ stateE4.pc.toNat + 1 ∧
    State.reset.cfg.memSize ≤ ({ State.reset with pc := 0xFFFF } : State).pc.toNat + 1 := by decide

theorem witness_HaltedStateNeverChanges :
    ({ State.reset with halted := true, haltCause := .stackUnderflow } : State).cfg.legal = true ∧
    ({ State.reset with halted := true, haltCause := .stackUnderflow } : State).halted = true := by decide

theorem witness_EveryStepReportsOneOutcome : (placed 0x0000).cfg.legal = true := by decide

theorem witness_OnlyIllegalConfigurationsAreRefused :
    ({ Config.default with memSize := 0x200 } : Config).legal = false ∧ smallConfig.legal = true := by decide

theorem witness_SelfJumpRepeatsForever :
    runs (placed 0x1200) 0x1200 ∧ (placed 0x1200).pc.toNat < 0x1000 ∧
    (0x1200 : Word).toNat = 0x1000 + (placed 0x1200).pc.toNat := by unfold runs; decide

/-! ## Whole-machine rules -/

theorem witness_ErrorsArePrecise :
    ∃ t, step (placed 0x5121) = .next t ∧
      t.report = some ⟨.decodeMiss, .decodeMiss, some 0x200, some 0x5121, some 0x5121⟩ := ⟨_, rfl, by decide⟩

theorem witness_ErrorsArePrecise_fetch :
    ∃ t, step stateE4 = .next t ∧
      t.report = some ⟨.guestError, .fetchBounds, some 0xFFF, none, some 0xFFF⟩ := ⟨_, rfl, by decide⟩

theorem witness_OnlyListedInstructionsWrite :
    (∃ t, exec (.addVxVy 0 1) State.reset = .next t) ∧ mayWriteReg (.addVxVy 0 1) 2 = false ∧
    mayWritePart Config.default (.addVxVy 0 1) .memory = false ∧
    mayWritePart Config.default (.ldIndVx 3) .index = false := ⟨⟨_, rfl⟩, rfl, rfl, rfl⟩

theorem witness_InputsAffectOnlyTheirReaders : readsKeys (.rnd 0 1) = false ∧ readsRnd (.skp 0) = false := by decide

theorem witness_SoundTimerIsReadByNothing : ∀ x, Instr.ldVxDt 0 ≠ .ldStVx x := by simp

/-! ## Creation and the invariant -/

theorem witness_CreationValues :
    79 < Config.default.fontTable.length ∧ Config.default.fontBase + Config.default.fontTable.length ≤ 80 ∧
    0xFF < ({ Config.default with fontBase := 0x100 } : Config).fontBase := by decide

theorem witness_LoadedImageStandsInMemory :
    smallConfig.legal = true ∧ smallConfig.loadOffset.toNat + [0x12, (0x00 : Byte)].length ≤ smallConfig.memSize ∧
    smallConfig.memSize < smallConfig.loadOffset.toNat + [0x12, 0x00, (0x00 : Byte)].length := by decide

/-- A state in the middle of a WaitKey at its own word, from which a step goes on. -/
def waitingState : State := { placed 0xF30A with wkActive := true }

theorem witness_InvariantIsKeptByEveryStep : Inv waitingState ∧ ∃ t, step waitingState = .next t := by
  refine ⟨⟨by decide, by decide, fun d h => ?_, by decide, fun _ => ⟨0xF30A, 3, by decide, by decide⟩⟩, ?_⟩
  · obtain rfl : 16 = d := Option.some.inj h
    decide
  · exact ⟨_, rfl⟩

end Sys2Proof.Tests
end

section
/-! PROOFS. When the step answers and when it refuses (93_implementation_defined.md U13). -/

namespace Sys2Proof.Machine

/-- Every effect is committed to a next state, a raise included (60_exceptions.md R123). -/
theorem commit_answers (s : State) (e : Effect) : ∃ t, commit s e = .next t := by
  cases e <;> exact ⟨_, rfl⟩

/-- U13: outside the legal values there is no step. -/
theorem step_of_illegal {s : State} (hl : s.cfg.legal = false) : step s = .refused .illegalConfig :=
  if_pos hl

/-- Under a legal configuration every step answers: halted, fetch out of bounds, decode-miss and execute alike
(R121, R123). -/
theorem step_answers_of_legal {s : State} (hl : s.cfg.legal = true) : ∃ t, step s = .next t := by
  obtain ⟨hi, -⟩ | ⟨-, -, h⟩ | ⟨-, -, -, h⟩ | ⟨w, _, -, -, -, -, h⟩ | ⟨w, i, -, -, -, -, h⟩ := step_cases s
  · exact absurd (hl.symm.trans hi) Bool.noConfusion
  · exact ⟨_, h⟩
  · exact ⟨_, h⟩
  · rw [h]; exact commit_answers _ _
  · rw [h]; exact exec_next i _

/-- The refusals of the step: one reason, and exactly outside the legal values. -/
theorem step_eq_refused_iff (s : State) (q : Refusal) :
    step s = .refused q ↔ s.cfg.legal = false ∧ q = .illegalConfig := by
  cases hl : s.cfg.legal with
  | false => simp [step_of_illegal hl, eq_comm]
  | true =>
    obtain ⟨t, ht⟩ := step_answers_of_legal hl
    simp [ht]

/-- Settles O42: the refusals of the step are known exactly (`step_eq_refused_iff`). -/
theorem onlyIllegalConfigurationsAreRefused : Obligations.OnlyIllegalConfigurationsAreRefused := by
  unfold Obligations.OnlyIllegalConfigurationsAreRefused
  intro s
  refine ⟨?_, fun q hq => ((step_eq_refused_iff s q).mp hq).2⟩
  simp [step_eq_refused_iff]

end Sys2Proof.Machine
end

section
/-! PROOFS. What an instruction answers, in three functions of its own: the error its operation raises, whether it
waits for a key, and the state it leaves when it completes. `exec_eq_answer` ties them to the model; everything after it
reasons about the three functions and not about the operations. -/

namespace Sys2Proof.Machine

/-! ## The answer of an instruction -/

/-- The range check over the n bytes from I on, as the error it raises (20_memory.md R36). -/
def rangeRaise (s : State) (n : Nat) : Option Raise :=
  (s.firstOutOfRange n).map (Raise.guestError .memBounds)

/-- The check on the key index, as the error it raises (44_display_input.md R117). -/
def keyRaise (k : Nat) : Option Raise :=
  if 16 ≤ k then some (.guestError .keyIndexRange k) else none

/-- What the operation of an instruction raises, if it raises (60_exceptions.md R122). -/
def raised : Instr → State → Option Raise
  | .ret, s => if s.stack = [] then some (.guestError .stackUnderflow 0) else none
  | .sys nnn, _ => some (.sys nnn.toNat)
  | .call _, s => if s.stackFull then some (.guestError .stackOverflow s.stack.length) else none
  | .drw _ _ n, s => rangeRaise s n.toNat
  | .skp x, s => keyRaise (s.getV x).toNat
  | .sknp x, s => keyRaise (s.getV x).toNat
  | .ldBVx _, s => rangeRaise s 3
  | .ldIndVx x, s => rangeRaise s (x.val + 1)
  | .ldVxInd x, s => rangeRaise s (x.val + 1)
  | _, _ => none

/-- The instruction goes on waiting for a key: it is LD Vx, K, at its first attempt or without a new press
(44_display_input.md R120). -/
def waitsForKey : Instr → State → Bool
  | .ldVxK _, s => !s.wkActive || (newPress s.wkPrev s.input.keys).isNone
  | _, _ => false

/-- pc after a skip on a condition (43_control.md R104). -/
def State.skippedPc (s : State) (c : Bool) : Word := if c then s.pc + 2 else s.pc

/-- I after Stash and Fetch (42_load_store.md R100). -/
def State.bumpedIndex (s : State) (x : RegIx) : Word :=
  if s.cfg.loadStoreIncrementsI then BitVec.ofNat 16 (s.i.toNat + x.val + 1) else s.i

/-- The state an instruction leaves when it neither raises nor waits, without its report: an update of s that names the
fields the instruction writes. -/
def completed (i : Instr) (s : State) : State :=
  match i with
  | .cls => { s with fb := FrameBuffer.clear }
  | .ret => { s with stack := s.stack.dropLast, pc := s.stack.getLastD 0 }
  | .sys _ => s
  | .jp nnn => s.setPc nnn.toNat
  | .call nnn => (s.push s.pc).setPc nnn.toNat
  | .seVxKk x kk => { s with pc := s.skippedPc ((s.getV x).toNat == kk.toNat) }
  | .sneVxKk x kk => { s with pc := s.skippedPc ((s.getV x).toNat != kk.toNat) }
  | .seVxVy x y => { s with pc := s.skippedPc ((s.getV x).toNat == (s.getV y).toNat) }
  | .ldVxKk x kk => s.setV x kk
  | .addVxKk x kk => s.setV x (BitVec.ofNat 8 ((s.getV x).toNat + kk.toNat))
  | .ldVxVy x y => s.setV x (s.getV y)
  | .orVxVy x y => s.setV x (BitVec.ofNat 8 ((s.getV x).toNat ||| (s.getV y).toNat))
  | .andVxVy x y => s.setV x (BitVec.ofNat 8 ((s.getV x).toNat &&& (s.getV y).toNat))
  | .xorVxVy x y => s.setV x (BitVec.ofNat 8 ((s.getV x).toNat ^^^ (s.getV y).toNat))
  | .addVxVy x y =>
    (s.setV x (BitVec.ofNat 8 ((s.getV x).toNat + (s.getV y).toNat))).setV 15
      (carryFlag ((s.getV x).toNat + (s.getV y).toNat))
  | .subVxVy x y =>
    (s.setV x (BitVec.ofNat 8 ((s.getV x).toNat + 0x100 - (s.getV y).toNat))).setV 15
      (noBorrowFlag (s.getV x).toNat (s.getV y).toNat)
  | .shrVxVy x y =>
    (s.setV x (BitVec.ofNat 8 ((s.getV y).toNat >>> 1))).setV 15 (shiftOutRight (s.getV y).toNat)
  | .subnVxVy x y =>
    (s.setV x (BitVec.ofNat 8 ((s.getV y).toNat + 0x100 - (s.getV x).toNat))).setV 15
      (noBorrowFlag (s.getV y).toNat (s.getV x).toNat)
  | .shlVxVy x y =>
    (s.setV x (BitVec.ofNat 8 ((s.getV y).toNat <<< 1))).setV 15 (shiftOutLeft (s.getV y).toNat)
  | .sneVxVy x y => { s with pc := s.skippedPc ((s.getV x).toNat != (s.getV y).toNat) }
  | .ldINnn nnn => s.setI nnn.toNat
  | .jpV0 nnn => s.setPc (nnn.toNat + (s.getV 0).toNat)
  | .rnd x kk => s.setV x (BitVec.ofNat 8 (s.input.rnd.toNat &&& kk.toNat))
  | .drw x y n =>
    { s.setV 15 (flagByte (s.blit (s.getV x).toNat (s.getV y).toNat n.toNat).hit) with
      fb := (s.blit (s.getV x).toNat (s.getV y).toNat n.toNat).fb }
  | .skp x => { s with pc := s.skippedPc (s.input.keys.getLsbD (s.getV x).toNat) }
  | .sknp x => { s with pc := s.skippedPc (!s.input.keys.getLsbD (s.getV x).toNat) }
  | .ldVxDt x => s.setV x s.dt
  | .ldVxK x =>
    { s.setV x (BitVec.ofNat 8 ((newPress s.wkPrev s.input.keys).getD 0).val) with wkActive := false }
  | .ldDtVx x => s.setDt (s.getV x).toNat
  | .ldStVx x => s.setSt (s.getV x).toNat
  | .addIVx x => s.setI (s.i.toNat + (s.getV x).toNat)
  | .ldFVx x => s.setI (s.cfg.fontBase + s.cfg.fontGlyphStride * (s.getV x).toNat)
  | .ldBVx x => { s with mem := (s.storeBytes s.i.toNat (bcdDigits (s.getV x).toNat)).mem }
  | .ldIndVx x => { s with mem := (s.storeBytes s.i.toNat (s.regsUpTo x)).mem, i := s.bumpedIndex x }
  | .ldVxInd x => { s with v := (s.loadRegs x).v, i := s.bumpedIndex x }

/-- The state an instruction answers: the raise committed, the wait retried, or the instruction completed, each with its
report (60_exceptions.md R121, R123). -/
def answer (i : Instr) (s : State) : State :=
  (raised i s).elim
    (if waitsForKey i s then s.retryWait.withReport .waiting .noCause none else (completed i s).done)
    s.commitRaise

/-! ## The tie to the model -/

/-- An access behind its range check is committed as the check's raise, or as done. -/
theorem commit_withRange_ok (s u : State) (n : Nat) :
    commit s (withRange s n (.ok u)) = .next ((rangeRaise s n).elim u.done s.commitRaise) := by
  unfold withRange rangeRaise
  cases s.firstOutOfRange n <;> rfl

theorem State.loadRegs_eq_withV (s : State) (x : RegIx) : s.loadRegs x = { s with v := (s.loadRegs x).v } := by
  obtain ⟨v, hv⟩ := State.loadRegs_eq s x
  rw [hv]

/-- Every instruction answers the one state `answer` gives. -/
theorem exec_eq_answer (i : Instr) (s : State) : exec i s = .next (answer i s) := by
  cases i with
  | ret =>
    obtain h | ⟨S, a, h⟩ := List.eq_nil_or_concat' s.stack
    · simp [exec, execRet_nil h, answer, raised, h]
    · simp [exec, execRet_snoc h, answer, raised, waitsForKey, completed, h]
  | call nnn =>
    rw [exec, execCall_eq]
    cases h : s.stackFull <;> simp [answer, raised, waitsForKey, completed, h]
  | ldVxKk x kk => exact execLdVxKk_eq x kk s
  | ldVxVy x y => exact execLdVxVy_eq x y s
  | ldVxDt x => exact execLdVxDt_eq x s
  | seVxKk x kk => rw [exec, execSeVxKk_eq, State.skipIf_eq]; rfl
  | sneVxKk x kk => rw [exec, execSneVxKk_eq, State.skipIf_eq]; rfl
  | seVxVy x y => rw [exec, execSeVxVy_eq, State.skipIf_eq]; rfl
  | sneVxVy x y => rw [exec, execSneVxVy_eq, State.skipIf_eq]; rfl
  | skp x =>
    rw [exec, execSkp_eq, State.skipIf_eq]
    by_cases h : 16 ≤ (s.getV x).toNat <;> simp [answer, raised, keyRaise, waitsForKey, completed, State.skippedPc, h]
  | sknp x =>
    rw [exec, execSknp_eq, State.skipIf_eq]
    by_cases h : 16 ≤ (s.getV x).toNat <;> simp [answer, raised, keyRaise, waitsForKey, completed, State.skippedPc, h]
  | ldVxK x =>
    rw [exec, execLdVxK_eq]
    cases hw : s.wkActive <;> cases hp : newPress s.wkPrev s.input.keys <;>
      simp [answer, raised, waitsForKey, completed, hw, hp]
  | drw x y n =>
    rw [exec, execDrw_eq, commit_withRange_ok]
    simp [answer, raised, waitsForKey, completed, State.setV]
  | ldBVx x =>
    rw [exec, execLdBVx_eq, commit_withRange_ok, State.storeBytes_eq]
    rfl
  | ldIndVx x =>
    rw [exec, execLdIndVx_eq, commit_withRange_ok, State.storeBytes_eq, State.bumpIndex_eq]
    rfl
  | ldVxInd x =>
    rw [exec, execLdVxInd_eq, commit_withRange_ok, State.loadRegs_eq_withV, State.bumpIndex_eq]
    rfl
  | _ => rfl

end Sys2Proof.Machine
end

section
/-! PROOFS. What an instruction leaves unchanged (10_state.md R18-R25, R29): each field of the completed state, and from
the fields every part of the answer. -/

namespace Sys2Proof.Machine

/-! ## Who raises and who waits -/

/-- Only the listed instructions raise. -/
theorem raised_eq_none {i : Instr} (h : mayRaise i = false) (s : State) : raised i s = none := by
  cases i with
  | sys | ret | call | drw | ldBVx | ldIndVx | ldVxInd | skp | sknp => cases h
  | _ => rfl

/-- Only LD Vx, K waits. -/
theorem eq_ldVxK_of_waitsForKey {i : Instr} {s : State} (h : waitsForKey i s = true) : ∃ x, i = .ldVxK x := by
  cases i with
  | ldVxK x => exact ⟨x, rfl⟩
  | _ => cases h

/-- What an instruction can answer: a raise of its own, a retried wait, or its completed state. -/
theorem answer_cases (i : Instr) (s : State) :
    (∃ r, raised i s = some r ∧ answer i s = s.commitRaise r) ∨
    (∃ x, i = .ldVxK x ∧ answer i s = s.retryWait.withReport .waiting .noCause none) ∨
    (raised i s = none ∧ answer i s = (completed i s).done) := by
  cases hr : raised i s with
  | some r => exact .inl ⟨r, rfl, by simp [answer, hr]⟩
  | none =>
    cases hw : waitsForKey i s with
    | true =>
      obtain ⟨x, rfl⟩ := eq_ldVxK_of_waitsForKey hw
      exact .inr (.inl ⟨x, rfl, by simp [answer, hr, hw]⟩)
    | false => exact .inr (.inr ⟨rfl, by simp [answer, hr, hw]⟩)

/-! ## The fields of the completed state -/

/-- Completing changes none but these ten fields. -/
theorem completed_eq (i : Instr) (s : State) :
    completed i s =
      { s with v := (completed i s).v, i := (completed i s).i, pc := (completed i s).pc, dt := (completed i s).dt,
               st := (completed i s).st, stack := (completed i s).stack, mem := (completed i s).mem,
               fb := (completed i s).fb, wkActive := (completed i s).wkActive } := by
  cases i <;> rfl

section
variable (i : Instr) (s : State)

@[simp] theorem completed_cfg : (completed i s).cfg = s.cfg := by rw [completed_eq]
@[simp] theorem completed_wkPrev : (completed i s).wkPrev = s.wkPrev := by rw [completed_eq]
@[simp] theorem completed_halted : (completed i s).halted = s.halted := by rw [completed_eq]
@[simp] theorem completed_haltCause : (completed i s).haltCause = s.haltCause := by rw [completed_eq]
@[simp] theorem completed_input : (completed i s).input = s.input := by rw [completed_eq]
@[simp] theorem completed_pending : (completed i s).pending = s.pending := by rw [completed_eq]
@[simp] theorem completed_stepNo : (completed i s).stepNo = s.stepNo := by rw [completed_eq]
@[simp] theorem completed_fetched : (completed i s).fetched = s.fetched := by rw [completed_eq]

end

section
variable {i : Instr} {s : State}

theorem completed_i (h : mayWritePart s.cfg i .index = false) : (completed i s).i = s.i := by
  cases i with
  | ldINnn | addIVx | ldFVx => cases h
  | ldIndVx x | ldVxInd x =>
    have hf : s.cfg.loadStoreIncrementsI = false := h
    simp [completed, State.bumpedIndex, hf]
  | _ => rfl

theorem completed_pc (h : mayWritePart s.cfg i .pc = false) : (completed i s).pc = s.pc := by
  cases i with
  | jp | jpV0 | call | ret | seVxKk | sneVxKk | seVxVy | sneVxVy | skp | sknp => cases h
  | _ => rfl

theorem completed_dt (h : mayWritePart s.cfg i .delayTimer = false) : (completed i s).dt = s.dt := by
  cases i with
  | ldDtVx => cases h
  | _ => rfl

theorem completed_st (h : mayWritePart s.cfg i .soundTimer = false) : (completed i s).st = s.st := by
  cases i with
  | ldStVx => cases h
  | _ => rfl

theorem completed_stack (h : mayWritePart s.cfg i .stack = false) : (completed i s).stack = s.stack := by
  cases i with
  | call | ret => cases h
  | _ => rfl

theorem completed_mem (h : mayWritePart s.cfg i .memory = false) : (completed i s).mem = s.mem := by
  cases i with
  | ldBVx | ldIndVx => cases h
  | _ => rfl

theorem completed_fb (h : mayWritePart s.cfg i .framebuffer = false) : (completed i s).fb = s.fb := by
  cases i with
  | cls | drw => cases h
  | _ => rfl

theorem completed_wkActive (h : mayWritePart s.cfg i .waitLatch = false) :
    (completed i s).wkActive = s.wkActive := by
  cases i with
  | ldVxK => cases h
  | _ => rfl

theorem getV_completed {r : RegIx} (h : mayWriteReg i r = false) : (completed i s).getV r = s.getV r := by
  cases i with
  | ldVxKk x | addVxKk x | ldVxVy x | orVxVy x | andVxVy x | xorVxVy x | rnd x | ldVxDt x | ldVxK x =>
    have hx : r ≠ x := by simpa [mayWriteReg] using h
    exact State.getV_setV_ne hx
  | addVxVy x | subVxVy x | shrVxVy x | subnVxVy x | shlVxVy x =>
    have ⟨hx, hf⟩ : r ≠ x ∧ r ≠ 15 := by simpa [mayWriteReg] using h
    exact (State.getV_setV_ne hf).trans (State.getV_setV_ne hx)
  | drw =>
    have hf : r ≠ 15 := by simpa [mayWriteReg] using h
    exact State.getV_setV_ne hf
  | ldVxInd x =>
    have hx : ¬ r ≤ x := by simpa [mayWriteReg] using h
    exact (s.getV_loadRegs x r).trans (if_neg hx)
  | _ => rfl

/-! ## The parts of the answer -/

/-- Completing leaves every part but the registers (`getV_completed`) that the instruction may not write. -/
theorem unchanged_completed {p : Part} (h : mayWritePart s.cfg i p = false) : Unchanged p s (completed i s) := by
  cases p with
  | config => exact completed_cfg i s
  | regs | report => cases h
  | index => exact completed_i h
  | pc => exact completed_pc h
  | delayTimer => exact completed_dt h
  | soundTimer => exact completed_st h
  | stack => exact completed_stack h
  | memory => exact State.readMem_congr (completed_cfg i s) (completed_mem h)
  | framebuffer => intro y x; rw [completed_fb h]
  | waitLatch => exact ⟨completed_wkActive h, completed_wkPrev i s⟩
  | halting => exact ⟨completed_halted i s, completed_haltCause i s⟩
  | inputs => exact ⟨completed_input i s, completed_pending i s, completed_stepNo i s⟩
  | fetched => exact completed_fetched i s

end

/-- A report changes no other part. -/
theorem unchanged_withReport {p : Part} {s t : State} (k : OutcomeKind) (c : Cause) (n : Option Nat)
    (hp : p ≠ .report) (h : Unchanged p s t) : Unchanged p s (t.withReport k c n) := by
  cases p with
  | report => exact absurd rfl hp
  | _ => exact h

/-- The retry of a wait writes pc and the latch alone (44_display_input.md R120). -/
theorem keeps_retryWait (s : State) : KeepsAllBut [.pc, .waitLatch] s s.retryWait := by
  intro p hp
  cases p with
  | pc | waitLatch => simp at hp
  | inputs => exact ⟨rfl, rfl, rfl⟩
  | halting => exact ⟨rfl, rfl⟩
  | regs | memory => exact fun _ => rfl
  | framebuffer => exact fun _ _ => rfl
  | _ => rfl

/-- The parts an answer leaves. -/
theorem unchanged_answer {i : Instr} {s : State} {p : Part} (h : mayWritePart s.cfg i p = false) :
    Unchanged p s (answer i s) := by
  have hreport : p ≠ .report := by rintro rfl; cases h
  obtain ⟨r, hr, ha⟩ | ⟨x, rfl, ha⟩ | ⟨-, ha⟩ := answer_cases i s
  · have hhalting : p ≠ .halting := by
      rintro rfl
      rw [raised_eq_none h] at hr
      cases hr
    rw [ha]
    exact s.keeps_commitRaise r p (by simp [hhalting, hreport])
  · have hpc : p ≠ .pc := by rintro rfl; cases h
    have hlatch : p ≠ .waitLatch := by rintro rfl; cases h
    rw [ha]
    exact unchanged_withReport _ _ _ hreport (keeps_retryWait s p (by simp [hpc, hlatch]))
  · rw [ha]
    exact unchanged_withReport _ _ _ hreport (unchanged_completed h)

/-- The registers an answer leaves. -/
theorem getV_answer {i : Instr} {s : State} {r : RegIx} (h : mayWriteReg i r = false) :
    (answer i s).getV r = s.getV r := by
  obtain ⟨e, -, ha⟩ | ⟨x, -, ha⟩ | ⟨-, ha⟩ := answer_cases i s <;> rw [ha]
  · exact s.keeps_commitRaise e .regs (by decide) r
  · exact keeps_retryWait s .regs (by decide) r
  · exact getV_completed h

/-- An instruction's answer is its only next state. -/
theorem eq_answer_of_exec {i : Instr} {s t : State} (h : exec i s = .next t) : t = answer i s := by
  rw [exec_eq_answer] at h
  exact (Host.Outcome.next.inj h).symm

/-- Settles O46: the registers of the answer, whichever of the three it is (`getV_answer`). -/
theorem onlyListedInstructionsWriteRegisters : Obligations.OnlyListedInstructionsWriteRegisters := by
  unfold Obligations.OnlyListedInstructionsWriteRegisters
  intro i s t r ht h
  rw [eq_answer_of_exec ht]
  exact getV_answer h

/-- Settles O47: the parts of the answer, whichever of the three it is (`unchanged_answer`). -/
theorem onlyListedInstructionsWriteEachPart : Obligations.OnlyListedInstructionsWriteEachPart := by
  unfold Obligations.OnlyListedInstructionsWriteEachPart
  intro i s t p ht h
  rw [eq_answer_of_exec ht]
  exact unchanged_answer h

end Sys2Proof.Machine
end

section
/-! PROOFS. Who reads the keys, the draw and the sound timer: an instruction that reads none of them answers the same
state whatever they hold (10_state.md R24, R28, 60_exceptions.md R127). -/

namespace Sys2Proof.Machine

/-- The state with the sound timer and the inputs of the step changed. -/
def State.withUnread (a : Byte → Byte) (b : StepInput → StepInput) (s : State) : State :=
  { s with st := a s.st, input := b s.input }

section
variable {i : Instr} {a : Byte → Byte} {b : StepInput → StepInput} {s : State}

/-- Which error is raised, and where the policies lead, depends on neither. -/
theorem State.commitRaise_withUnread (r : Raise) :
    (s.withUnread a b).commitRaise r = (s.commitRaise r).withUnread a b := by
  have hmiss (c : Cause) : (s.withUnread a b).applyMissPolicy c = (s.applyMissPolicy c).withUnread a b := by
    simp only [State.applyMissPolicy, State.withUnread]
    split <;> rfl
  have hguest (c : Cause) : (s.withUnread a b).applyGuestPolicy c = (s.applyGuestPolicy c).withUnread a b := by
    simp only [State.applyGuestPolicy, State.withUnread]
    split <;> rfl
  cases r with
  | decodeMiss | sys => simp only [State.commitRaise, hmiss]; rfl
  | guestError => simp only [State.commitRaise, hguest]; rfl
  | tableWiring => rfl

theorem raised_withUnread : raised i (s.withUnread a b) = raised i s := by
  cases i <;> rfl

theorem waitsForKey_withUnread (hkeys : readsKeys i = true → (b s.input).keys = s.input.keys) :
    waitsForKey i (s.withUnread a b) = waitsForKey i s := by
  cases i with
  | ldVxK => simp only [waitsForKey, State.withUnread, hkeys rfl]
  | _ => rfl

theorem State.retryWait_withUnread (hkeys : (b s.input).keys = s.input.keys) :
    (s.withUnread a b).retryWait = s.retryWait.withUnread a b := by
  simp only [State.retryWait, State.withUnread, hkeys]

theorem State.storeBytes_withUnread (n : Nat) (bs : List Byte) :
    (s.withUnread a b).storeBytes n bs = (s.storeBytes n bs).withUnread a b := by
  induction bs generalizing s n with
  | nil => rfl
  | cons c bs ih => exact ih (s := s.writeMem n c) (n + 1)

theorem State.loadRegs_withUnread (x : RegIx) :
    (s.withUnread a b).loadRegs x = (s.loadRegs x).withUnread a b :=
  List.foldl_hom (State.withUnread a b) fun t r => by
    by_cases h : r ≤ x
    · simp only [h, if_true]; rfl
    · simp only [h, if_false]

theorem completed_withUnread (hkeys : readsKeys i = true → (b s.input).keys = s.input.keys)
    (hrnd : readsRnd i = true → (b s.input).rnd = s.input.rnd) (hst : (∃ x, i = .ldStVx x) → ∀ v, a v = v) :
    completed i (s.withUnread a b) = (completed i s).withUnread a b := by
  cases i with
  | rnd => simp only [completed, State.withUnread, hrnd rfl]; rfl
  | skp | sknp | ldVxK => simp only [completed, State.withUnread, hkeys rfl]; rfl
  | ldStVx x => simp only [completed, State.withUnread, State.setSt, hst ⟨x, rfl⟩]; rfl
  | ldIndVx => simp only [completed, State.storeBytes_withUnread]; rfl
  | ldVxInd => simp only [completed, State.loadRegs_withUnread]; rfl
  | _ => rfl

/-- The answer commutes with a change of what the instruction does not read. -/
theorem answer_withUnread (hkeys : readsKeys i = true → (b s.input).keys = s.input.keys)
    (hrnd : readsRnd i = true → (b s.input).rnd = s.input.rnd) (hst : (∃ x, i = .ldStVx x) → ∀ v, a v = v) :
    answer i (s.withUnread a b) = (answer i s).withUnread a b := by
  unfold answer
  rw [raised_withUnread, waitsForKey_withUnread hkeys, completed_withUnread hkeys hrnd hst]
  cases raised i s with
  | some r => exact State.commitRaise_withUnread r
  | none =>
    cases hw : waitsForKey i s with
    | false => rfl
    | true =>
      obtain ⟨x, rfl⟩ := eq_ldVxK_of_waitsForKey hw
      simp only [Option.elim_none, if_true, State.retryWait_withUnread (hkeys rfl)]
      rfl

/-- So does the execution. -/
theorem exec_withUnread (hkeys : readsKeys i = true → (b s.input).keys = s.input.keys)
    (hrnd : readsRnd i = true → (b s.input).rnd = s.input.rnd) (hst : (∃ x, i = .ldStVx x) → ∀ v, a v = v) :
    exec i (s.withUnread a b) = mapNext (State.withUnread a b) (exec i s) := by
  rw [exec_eq_answer, exec_eq_answer, answer_withUnread hkeys hrnd hst]
  rfl

end

/-- Settles O49: another snapshot keeps the draw, another draw keeps the snapshot (`exec_withUnread`). -/
theorem inputsAffectOnlyTheirReaders : Obligations.InputsAffectOnlyTheirReaders := by
  unfold Obligations.InputsAffectOnlyTheirReaders
  refine ⟨fun i k s h => ?_, fun i r s h => ?_⟩
  · exact exec_withUnread (a := id) (b := fun x => { x with keys := k }) (by simp [h]) (fun _ => rfl) (fun _ _ => rfl)
  · exact exec_withUnread (a := id) (b := fun x => { x with rnd := r }) (fun _ => rfl) (by simp [h]) (fun _ _ => rfl)

/-- Settles O50: another sound timer is what an instruction leaves (`exec_withUnread`), and LD ST, Vx writes over it. -/
theorem soundTimerIsReadByNothing : Obligations.SoundTimerIsReadByNothing := by
  unfold Obligations.SoundTimerIsReadByNothing
  refine ⟨fun i v s h => ?_, fun x v s => rfl⟩
  exact exec_withUnread (a := fun _ => BitVec.ofNat 8 v) (b := id) (fun _ => rfl) (fun _ => rfl)
    (fun ⟨x, hx⟩ => absurd hx (h x))

end Sys2Proof.Machine
end

section
/-! PROOFS. The invariant of the machine is kept by every step: each field of `Inv` over an instruction's answer, then
over the five cases of a step. -/

namespace Sys2Proof.Machine

/-! ## What each field of the invariant depends on -/

theorem State.memWf_congr {s t : State} (hc : t.cfg = s.cfg) (hm : t.mem = s.mem) : t.memWf = s.memWf := by
  simp only [State.memWf, hc, hm]

/-- A wait goes on at its word as long as pc, the latch and what is fetched stay. -/
theorem WaitsAtItsWord.congr {s t : State} (h : WaitsAtItsWord s) (hc : t.cfg = s.cfg) (hm : t.mem = s.mem)
    (hp : t.pc = s.pc) (hk : t.wkActive = s.wkActive) : WaitsAtItsWord t := by
  unfold WaitsAtItsWord
  rw [hk, State.fetchWord_congr hc hm hp]
  exact h

theorem waitsAtItsWord_of_inactive {s : State} (h : s.wkActive = false) : WaitsAtItsWord s :=
  fun hk => absurd (h.symm.trans hk) Bool.noConfusion

/-- A state with the configuration, the memory and the stack of a state of the invariant. -/
theorem Inv.of_frame {s t : State} (h : Inv s) (hc : t.cfg = s.cfg) (hm : t.mem = s.mem) (hs : t.stack = s.stack)
    (cause : t.halted = false ↔ t.haltCause = .noCause) (wait : WaitsAtItsWord t) : Inv t where
  legal := hc ▸ h.legal
  memWf := (State.memWf_congr hc hm).trans h.memWf
  depth := by rw [hc, hs]; exact h.depth
  cause := cause
  wait := wait

/-! ## The commit of a raise -/

section
variable (s : State) (r : Raise)

@[simp] theorem State.commitRaise_cfg : (s.commitRaise r).cfg = s.cfg := by rw [State.commitRaise_eq]
@[simp] theorem State.commitRaise_mem : (s.commitRaise r).mem = s.mem := by rw [State.commitRaise_eq]
@[simp] theorem State.commitRaise_stack : (s.commitRaise r).stack = s.stack := by rw [State.commitRaise_eq]
@[simp] theorem State.commitRaise_wkActive : (s.commitRaise r).wkActive = s.wkActive := by rw [State.commitRaise_eq]

end

/-- A raise either leaves the halting fields or halts with its cause, which is not `noCause` (R22, R123). -/
theorem State.cause_commitRaise {s : State} {r : Raise} (hr : ∀ n, r ≠ .guestError .noCause n)
    (h : s.halted = false ↔ s.haltCause = .noCause) :
    (s.commitRaise r).halted = false ↔ (s.commitRaise r).haltCause = .noCause := by
  cases r with
  | decodeMiss w =>
    cases hp : s.cfg.missPolicy <;> simp [State.commitRaise, State.applyMissPolicy, hp, h]
  | sys n =>
    cases hp : s.cfg.missPolicy <;> simp [State.commitRaise, State.applyMissPolicy, hp, h]
  | guestError c n =>
    have hc : c ≠ .noCause := fun hc => hr n (hc ▸ rfl)
    cases hp : s.cfg.guestErrorPolicy <;> simp [State.commitRaise, State.applyGuestPolicy, hp, h, hc]
  | tableWiring => simp [State.commitRaise]

theorem raised_ne_noCause {i : Instr} {s : State} {n : Nat} : raised i s ≠ some (.guestError .noCause n) := by
  cases i with
  | ret | sys | call => simp [raised]
  | skp | sknp => simp [raised, keyRaise]
  | drw | ldBVx | ldIndVx | ldVxInd => simp [raised, rangeRaise]
  | _ => nofun

/-! ## The completed state -/

/-- A check that does not raise leaves its n bytes inside memory (20_memory.md R36). -/
theorem le_memSize_of_rangeRaise {s : State} {n : Nat} (hn : 0 < n) (h : rangeRaise s n = none) :
    s.i.toNat + n ≤ s.cfg.memSize := by
  have hin : n = 0 ∨ s.i.toNat + n - 1 < s.cfg.memSize :=
    (s.firstOutOfRange_eq_none n).1 (Option.map_eq_none_iff.1 h)
  omega

theorem memWf_completed {i : Instr} {s : State} (h : s.memWf = true) (hr : raised i s = none) :
    (completed i s).memWf = true := by
  cases i with
  | ldBVx x =>
    have hin : s.i.toNat + 3 ≤ s.cfg.memSize := le_memSize_of_rangeRaise (by decide) hr
    have hw := State.memWf_storeBytes (bcdDigits (s.getV x).toNat) h hin
    rw [State.storeBytes_eq] at hw
    exact hw
  | ldIndVx x =>
    have hin : s.i.toNat + (x.val + 1) ≤ s.cfg.memSize := le_memSize_of_rangeRaise (by omega) hr
    have hw := State.memWf_storeBytes (s.regsUpTo x) h (by rw [State.length_regsUpTo]; exact hin)
    rw [State.storeBytes_eq] at hw
    exact hw
  | _ => exact h

/-- There is room for a return address exactly below `STACK_DEPTH` (10_state.md R25). -/
theorem State.stackFull_eq_false_iff (s : State) :
    s.stackFull = false ↔ ∀ d, s.cfg.stackDepth = some d → s.stack.length < d := by
  unfold State.stackFull
  cases s.cfg.stackDepth <;> simp

theorem depth_completed {i : Instr} {s : State} (h : ∀ d, s.cfg.stackDepth = some d → s.stack.length ≤ d)
    (hr : raised i s = none) (d : Nat) (hd : s.cfg.stackDepth = some d) : (completed i s).stack.length ≤ d := by
  cases i with
  | call nnn =>
    have hroom : s.stackFull = false := by simpa [raised] using hr
    have : s.stack.length < d := s.stackFull_eq_false_iff.1 hroom d hd
    simpa [completed] using this
  | ret =>
    have := h d hd
    simp only [completed, List.length_dropLast]
    omega
  | _ => exact h d hd

/-- Completing ends a wait, and no instruction but LD Vx, K was waiting (44_display_input.md R120). -/
theorem completed_wkActive_eq_false {i : Instr} {s : State} (h : s.wkActive = true → ∃ x, i = .ldVxK x) :
    (completed i s).wkActive = false := by
  cases i with
  | ldVxK => rfl
  | _ =>
    have hk : s.wkActive = false := by simpa using h
    exact hk

/-! ## The answer -/

/-- An answer is at the word of its wait, when the instruction was fetched two bytes below pc. -/
theorem waitsAtItsWord_answer {i : Instr} {s a : State} {w : Word} (hf : s.fetchWord = some w)
    (hd : decode w = .ok i) (hc : a.cfg = s.cfg) (hm : a.mem = s.mem) (hp : a.pc = s.pc + 2)
    (hk : a.wkActive = true → ∃ x, i = .ldVxK x) : WaitsAtItsWord (answer i a) := by
  obtain ⟨r, hr, ha⟩ | ⟨x, rfl, ha⟩ | ⟨-, ha⟩ := answer_cases i a <;> rw [ha]
  · apply waitsAtItsWord_of_inactive
    rw [State.commitRaise_wkActive, Bool.eq_false_iff]
    intro hact
    obtain ⟨x, rfl⟩ := hk hact
    cases hr
  · have hpc : a.pc - 2 = s.pc := by rw [hp, BitVec.add_sub_cancel]
    have hfetch : (a.retryWait.withReport .waiting .noCause none).fetchWord = s.fetchWord :=
      State.fetchWord_congr hc hm hpc
    exact fun _ => ⟨w, x, hfetch.trans hf, hd⟩
  · exact waitsAtItsWord_of_inactive (completed_wkActive_eq_false hk)

/-- An answer keeps the fields of the invariant one by one; the wait, which depends on where the instruction was
fetched, is `waitsAtItsWord_answer`. -/
theorem inv_answer {i : Instr} {s : State} (legal : s.cfg.legal = true) (memWf : s.memWf = true)
    (depth : ∀ d, s.cfg.stackDepth = some d → s.stack.length ≤ d) (cause : s.halted = false ↔ s.haltCause = .noCause)
    (wait : WaitsAtItsWord (answer i s)) : Inv (answer i s) := by
  obtain ⟨r, hr, ha⟩ | ⟨x, -, ha⟩ | ⟨hr, ha⟩ := answer_cases i s <;> rw [ha] at wait ⊢
  · have hcause : ∀ n, r ≠ .guestError .noCause n := fun n hn => raised_ne_noCause (hn ▸ hr)
    exact ⟨by simpa using legal, (State.memWf_congr (by simp) (by simp)).trans memWf, by simpa using depth,
      State.cause_commitRaise hcause cause, wait⟩
  · exact ⟨legal, memWf, depth, cause, wait⟩
  · exact ⟨by simpa using legal, memWf_completed memWf hr, by simpa using depth_completed depth hr,
      by simpa using cause, wait⟩

/-! ## The step -/

/-- What is in progress at the start of a step is the word fetched there, so only LD Vx, K meets an active latch. -/
theorem WaitsAtItsWord.decode_eq {s : State} {w : Word} (h : WaitsAtItsWord s) (hf : s.fetchWord = some w)
    (hk : s.wkActive = true) : ∃ x, decode w = .ok (.ldVxK x) := by
  obtain ⟨w', x, hf', hd⟩ := h hk
  obtain rfl : w = w' := Option.some.inj (hf.symm.trans hf')
  exact ⟨x, hd⟩

/-- Settles O54, by the cases of the step: a halted step and an out-of-bounds fetch leave pc and the latch; a word that
decodes to no instruction meets no wait; an instruction keeps each field (`inv_answer`, `waitsAtItsWord_answer`). -/
theorem invariantIsKeptByEveryStep : Obligations.InvariantIsKeptByEveryStep := by
  unfold Obligations.InvariantIsKeptByEveryStep
  intro s t h ht
  obtain ⟨-, hs⟩ | ⟨-, -, hs⟩ | ⟨-, -, -, hs⟩ | ⟨w, e, -, -, hf, hd, hs⟩ | ⟨w, i, -, -, hf, hd, hs⟩ := step_cases s <;>
    rw [hs] at ht
  · cases ht
  · cases ht
    exact h.of_frame rfl rfl rfl h.cause (h.wait.congr rfl rfl rfl rfl)
  · cases ht
    exact h.of_frame rfl rfl rfl (by simp) (h.wait.congr rfl rfl rfl rfl)
  · cases ht
    have hk : s.wkActive = false := by
      rw [Bool.eq_false_iff]
      intro hact
      obtain ⟨x, hx⟩ := h.wait.decode_eq hf hact
      cases hd.symm.trans hx
    exact h.of_frame (by simp) (by simp) (by simp) (State.cause_commitRaise nofun h.cause)
      (waitsAtItsWord_of_inactive (by simpa using hk))
  · rw [exec_eq_answer] at ht
    cases ht
    have hk : s.wkActive = true → ∃ x, i = .ldVxK x := fun hact => by
      obtain ⟨x, hx⟩ := h.wait.decode_eq hf hact
      exact ⟨x, Except.ok.inj (hd.symm.trans hx)⟩
    exact inv_answer h.legal h.memWf h.depth h.cause (waitsAtItsWord_answer hf hd rfl rfl rfl hk)

end Sys2Proof.Machine
end

section
/-! PROOFS. The halted block, which no step changes (10_state.md R22, 60_exceptions.md R123, R126), and the state at
creation (10_state.md R31). -/

namespace Sys2Proof.Machine

/-! ## Frames compose -/

theorem Unchanged.trans {p : Part} {s t u : State} (h : Unchanged p s t) (h' : Unchanged p t u) : Unchanged p s u := by
  cases p with
  | regs | memory => exact fun k => (h' k).trans (h k)
  | framebuffer => exact fun y x => (h' y x).trans (h y x)
  | waitLatch | halting => exact ⟨h'.1.trans h.1, h'.2.trans h.2⟩
  | inputs => exact ⟨h'.1.trans h.1, h'.2.1.trans h.2.1, h'.2.2.trans h.2.2⟩
  | _ => exact Eq.trans h' h

theorem KeepsAllBut.trans {ps : List Part} {s t u : State} (h : KeepsAllBut ps s t) (h' : KeepsAllBut ps t u) :
    KeepsAllBut ps s u :=
  fun p hp => (h p hp).trans (h' p hp)

/-! ## The halted block -/

/-- The step of a halted block takes its inputs and reports; nothing else changes. -/
theorem keeps_halted_step (s : State) : KeepsAllBut [.inputs, .fetched, .report] s s.latchInput.commitHalted := by
  intro p hp
  cases p with
  | inputs | fetched | report => simp at hp
  | waitLatch | halting => exact ⟨rfl, rfl⟩
  | regs | memory => exact fun _ => rfl
  | framebuffer => exact fun _ _ => rfl
  | _ => rfl

theorem step_of_halted {s : State} (hl : s.cfg.legal = true) (hh : s.halted = true) :
    step s = .next s.latchInput.commitHalted := by
  simp [step, hl, hh]

/-- A run goes on from the state its first step answers. -/
theorem run_succ_of_step {s t : State} (n : Nat) (h : step s = .next t) :
    Host.Core.run core (n + 1) s = Host.Core.run core n t := by
  have hcore : core.step s = .next t := h
  simp only [Host.Core.run, hcore]

/-- Settles O40, by induction on the number of further steps: each starts in a halted state with the same cause. -/
theorem haltedStateNeverChanges : Obligations.HaltedStateNeverChanges := by
  unfold Obligations.HaltedStateNeverChanges
  intro n
  induction n with
  | zero =>
    intro s hl hh
    exact ⟨s.latchInput.commitHalted, run_succ_of_step 0 (step_of_halted hl hh), rfl, keeps_halted_step s⟩
  | succ n ih =>
    intro s hl hh
    obtain ⟨t, hrun, hreport, hkeeps⟩ := ih s.latchInput.commitHalted hl hh
    exact ⟨t, (run_succ_of_step (n + 1) (step_of_halted hl hh)).trans hrun, hreport,
      (keeps_halted_step s).trans hkeeps⟩

/-! ## Creation -/

/-- At creation every address reads as the configuration says (log 10). -/
theorem readMem_create (c : Config) (a : Nat) : (State.create c).readMem a = c.creationByte a := rfl

/-- Inside the font table an address reads as the table's byte. -/
theorem creationByte_font (c : Config) (k : Nat) : c.creationByte (c.fontBase + k) = c.fontTable.getD k 0 := by
  simp [Config.creationByte]

/-- Outside the font table every address reads as 0. -/
theorem creationByte_outside {c : Config} {a : Nat} (h : a < c.fontBase ∨ c.fontBase + c.fontTable.length ≤ a) :
    c.creationByte a = 0 := by
  obtain h | h := h
  · exact if_neg (by omega)
  · have hlen : c.fontTable.length ≤ a - c.fontBase := by omega
    simp [Config.creationByte, List.getD_eq_getElem?_getD, List.getElem?_eq_none hlen]

/-- At creation every register is 0. -/
theorem getV_create (c : Config) (r : RegIx) : (State.create c).getV r = 0 := by
  simp [State.getV, State.create]

/-- Settles O51: memory by the font table (`creationByte_font`, `creationByte_outside`), the framebuffer as cleared, the
rest as `State.create` writes it. -/
theorem creationValues : Obligations.CreationValues := by
  unfold Obligations.CreationValues
  refine ⟨fun c => ⟨fun k _ => ?_, fun a ha => ?_, getV_create c, rfl, rfl, rfl, rfl, rfl, FrameBuffer.pixel_clear,
    rfl, rfl, rfl, rfl⟩, rfl, rfl, rfl⟩
  · rw [readMem_create, creationByte_font]
  · rw [readMem_create, creationByte_outside ha]

end Sys2Proof.Machine
end

section
/-! PROOFS. Fetching an instruction word from memory: a word just stored at pc is what the next fetch reads
(20_memory.md R33, R47), and a fetch beyond memory halts (R37). -/

namespace Sys2Proof.Machine

/-! ## A word stored at pc -/

@[simp] theorem State.storeBytes_cfg (s : State) (a : Nat) (bs : List Byte) : (s.storeBytes a bs).cfg = s.cfg := by
  rw [State.storeBytes_eq]

@[simp] theorem State.storeBytes_pc (s : State) (a : Nat) (bs : List Byte) : (s.storeBytes a bs).pc = s.pc := by
  rw [State.storeBytes_eq]

/-- The first two bytes stored at pc are the word fetched there (R33, R47). -/
theorem State.fetchWord_storeBytes_pc {s : State} (h : s.pc.toNat + 1 < s.cfg.memSize) (hi lo : Byte)
    (bs : List Byte) : (s.storeBytes s.pc.toNat (hi :: lo :: bs)).fetchWord = some (wordOfBytes hi lo) := by
  simp [State.fetchWord, State.readMem_storeBytes, Nat.not_le.2 h]

/-- The high byte comes first: big-endian (R33). -/
theorem toNat_wordOfBytes (hi lo : Byte) : (wordOfBytes hi lo).toNat = hi.toNat * 256 + lo.toNat := by
  rw [wordOfBytes, BitVec.toNat_append, ← Nat.shiftLeft_add_eq_or_of_lt lo.isLt, Nat.shiftLeft_eq]

/-- The word of two naturals stored as bytes; a high one above a byte is cut off by the word as well. -/
theorem wordOfBytes_ofNat (p : Nat) {q : Nat} (hq : q < 256) :
    wordOfBytes (BitVec.ofNat 8 p) (BitVec.ofNat 8 q) = BitVec.ofNat 16 (p * 256 + q) := by
  apply BitVec.eq_of_toNat_eq
  rw [toNat_wordOfBytes]
  simp only [BitVec.toNat_ofNat]
  omega

/-- BCD with its three bytes inside memory completes (42_load_store.md R99). -/
theorem exec_ldBVx_of_lt {s : State} (x : RegIx) (h : s.i.toNat + 2 < s.cfg.memSize) :
    exec (.ldBVx x) s = .next (s.storeBytes s.i.toNat (bcdDigits (s.getV x).toNat)).done := by
  rw [exec, execLdBVx_eq, withRange_in _ (.inr h), commit]

/-- Settles O24: BCD completes (`exec_ldBVx_of_lt`), its first two digits stand at pc, and the fetch reads them
(`State.fetchWord_storeBytes_pc`). -/
theorem storedBytesAreFetchedNext : Obligations.StoredBytesAreFetchedNext := by
  unfold Obligations.StoredBytesAreFetchedNext
  intro x s hpc hin
  refine ⟨_, exec_ldBVx_of_lt x hin, ?_⟩
  rw [hpc] at hin ⊢
  calc (s.storeBytes s.pc.toNat (bcdDigits (s.getV x).toNat)).done.fetchWord
      = (s.storeBytes s.pc.toNat (bcdDigits (s.getV x).toNat)).fetchWord := State.fetchWord_congr rfl rfl rfl
    _ = some (wordOfBytes (BitVec.ofNat 8 ((s.getV x).toNat / 100)) (BitVec.ofNat 8 ((s.getV x).toNat / 10 % 10))) :=
      State.fetchWord_storeBytes_pc (by omega) _ _ _
    _ = some (BitVec.ofNat 16 ((s.getV x).toNat / 100 * 256 + (s.getV x).toNat / 10 % 10)) :=
      congrArg some (wordOfBytes_ofNat _ (by omega))

/-! ## A fetch beyond memory -/

/-- Nothing is fetched exactly when the word's second byte is not inside memory (R37). -/
theorem State.fetchWord_eq_none_iff (s : State) : s.fetchWord = none ↔ s.cfg.memSize ≤ s.pc.toNat + 1 := by
  simp [State.fetchWord]

/-- A running step at which no word can be fetched raises FETCH_BOUNDS after the tick (R37, 60_exceptions.md R128). -/
theorem step_of_fetchWord_none {s : State} (hl : s.cfg.legal = true) (hh : s.halted = false)
    (hf : s.fetchWord = none) : step s = .next s.latchInput.applyTick.commitFetchBounds := by
  simp [step, hl, hh, hf]

/-- Beyond the tick, the halt and the outcome, FETCH_BOUNDS changes nothing: pc is not advanced (R37). -/
theorem keeps_fetchBounds_step (s : State) :
    KeepsAllBut [.delayTimer, .soundTimer, .halting, .inputs, .fetched, .report] s
      s.latchInput.applyTick.commitFetchBounds := by
  intro p hp
  cases p with
  | delayTimer | soundTimer | halting | inputs | fetched | report => simp at hp
  | waitLatch => exact ⟨rfl, rfl⟩
  | regs | memory => exact fun _ => rfl
  | framebuffer => exact fun _ _ => rfl
  | _ => rfl

/-- Settles O39: no word can be fetched (`State.fetchWord_eq_none_iff`), so the step commits FETCH_BOUNDS, which
consults neither policy. -/
theorem fetchBeyondMemoryHalts : Obligations.FetchBeyondMemoryHalts := by
  unfold Obligations.FetchBeyondMemoryHalts
  intro s hl hh hpc
  have hf : s.fetchWord = none := s.fetchWord_eq_none_iff.2 hpc
  exact ⟨_, step_of_fetchWord_none hl hh hf, rfl, rfl, rfl, rfl, rfl, rfl, keeps_fetchBounds_step s⟩

end Sys2Proof.Machine
end

section
/-! PROOFS. Decoder and encoder (30_encoding.md): each row of the table reads the operands of its words where the word
formats of R50 put them, and accepts exactly the words its instructions encode to. -/

namespace Sys2Proof

open Laws

/-! ## Operands read from a word -/

/-- The instruction of the same row with its operands read from the fields of a word (R50). -/
def Instr.withOperandsOf (i : Instr) (w : Word) : Instr :=
  match i with
  | .cls => .cls
  | .ret => .ret
  | .sys _ => .sys (nnnField w)
  | .jp _ => .jp (nnnField w)
  | .call _ => .call (nnnField w)
  | .seVxKk _ _ => .seVxKk (xField w) (kkField w)
  | .sneVxKk _ _ => .sneVxKk (xField w) (kkField w)
  | .seVxVy _ _ => .seVxVy (xField w) (yField w)
  | .ldVxKk _ _ => .ldVxKk (xField w) (kkField w)
  | .addVxKk _ _ => .addVxKk (xField w) (kkField w)
  | .ldVxVy _ _ => .ldVxVy (xField w) (yField w)
  | .orVxVy _ _ => .orVxVy (xField w) (yField w)
  | .andVxVy _ _ => .andVxVy (xField w) (yField w)
  | .xorVxVy _ _ => .xorVxVy (xField w) (yField w)
  | .addVxVy _ _ => .addVxVy (xField w) (yField w)
  | .subVxVy _ _ => .subVxVy (xField w) (yField w)
  | .shrVxVy _ _ => .shrVxVy (xField w) (yField w)
  | .subnVxVy _ _ => .subnVxVy (xField w) (yField w)
  | .shlVxVy _ _ => .shlVxVy (xField w) (yField w)
  | .sneVxVy _ _ => .sneVxVy (xField w) (yField w)
  | .ldINnn _ => .ldINnn (nnnField w)
  | .jpV0 _ => .jpV0 (nnnField w)
  | .rnd _ _ => .rnd (xField w) (kkField w)
  | .drw _ _ _ => .drw (xField w) (yField w) (nField w)
  | .skp _ => .skp (xField w)
  | .sknp _ => .sknp (xField w)
  | .ldVxDt _ => .ldVxDt (xField w)
  | .ldVxK _ => .ldVxK (xField w)
  | .ldDtVx _ => .ldDtVx (xField w)
  | .ldStVx _ => .ldStVx (xField w)
  | .addIVx _ => .addIVx (xField w)
  | .ldFVx _ => .ldFVx (xField w)
  | .ldBVx _ => .ldBVx (xField w)
  | .ldIndVx _ => .ldIndVx (xField w)
  | .ldVxInd _ => .ldVxInd (xField w)

/-- A row reads the operands its word holds in the fields of R50, whatever the markers of its coding (R55, R57). -/
theorem build_extractRaw (i : Instr) (w : Word) :
    (row (rowIndex i)).build (extractRaw (row (rowIndex i)).coding w) = i.withOperandsOf w := by
  cases i with
  | cls | ret => rfl
  | sys | jp | call | ldINnn | jpV0 => exact congrArg _ (raw_nnn w)
  | seVxKk | sneVxKk | ldVxKk | addVxKk | rnd => exact congrArg₂ _ (rawReg_nibble2 w) (raw_kk w)
  | seVxVy | ldVxVy | orVxVy | andVxVy | xorVxVy | addVxVy | subVxVy | shrVxVy | subnVxVy | shlVxVy | sneVxVy =>
    exact congrArg₂ _ (rawReg_nibble2 w) (rawReg_nibble1 w)
  | drw =>
    have hxy := congrArg₂ Instr.drw (rawReg_nibble2 w) (rawReg_nibble1 w)
    exact congr hxy (raw_n w)
  | skp | sknp | ldVxDt | ldVxK | ldDtVx | ldStVx | addIVx | ldFVx | ldBVx | ldIndVx | ldVxInd =>
    exact congrArg _ (rawReg_nibble2 w)

/-- An encoded word holds the instruction's own operands. -/
theorem withOperandsOf_encode (i : Instr) : i.withOperandsOf (encode i) = i := by
  cases i <;> simp [Instr.withOperandsOf, encode]

/-! ## The words a row accepts -/

/-- The word of every instruction is accepted by the instruction's own row (R53, R59). -/
theorem row_accepts_encode (i : Instr) : (row (rowIndex i)).accepts (encode i) = true := by
  cases i with
  | cls => exact EncodesItsRow.cls
  | ret => exact EncodesItsRow.ret
  | sys nnn => exact EncodesItsRow.sys nnn
  | jp nnn => exact EncodesItsRow.jp nnn
  | call nnn => exact EncodesItsRow.call nnn
  | seVxKk x kk => exact EncodesItsRow.seVxKk x kk
  | sneVxKk x kk => exact EncodesItsRow.sneVxKk x kk
  | seVxVy x y => exact EncodesItsRow.seVxVy x y
  | ldVxKk x kk => exact EncodesItsRow.ldVxKk x kk
  | addVxKk x kk => exact EncodesItsRow.addVxKk x kk
  | ldVxVy x y => exact EncodesItsRow.ldVxVy x y
  | orVxVy x y => exact EncodesItsRow.orVxVy x y
  | andVxVy x y => exact EncodesItsRow.andVxVy x y
  | xorVxVy x y => exact EncodesItsRow.xorVxVy x y
  | addVxVy x y => exact EncodesItsRow.addVxVy x y
  | subVxVy x y => exact EncodesItsRow.subVxVy x y
  | shrVxVy x y => exact EncodesItsRow.shrVxVy x y
  | subnVxVy x y => exact EncodesItsRow.subnVxVy x y
  | shlVxVy x y => exact EncodesItsRow.shlVxVy x y
  | sneVxVy x y => exact EncodesItsRow.sneVxVy x y
  | ldINnn nnn => exact EncodesItsRow.ldINnn nnn
  | jpV0 nnn => exact EncodesItsRow.jpV0 nnn
  | rnd x kk => exact EncodesItsRow.rnd x kk
  | drw x y n => exact EncodesItsRow.drw x y n
  | skp x => exact EncodesItsRow.skp x
  | sknp x => exact EncodesItsRow.sknp x
  | ldVxDt x => exact EncodesItsRow.ldVxDt x
  | ldVxK x => exact EncodesItsRow.ldVxK x
  | ldDtVx x => exact EncodesItsRow.ldDtVx x
  | ldStVx x => exact EncodesItsRow.ldStVx x
  | addIVx x => exact EncodesItsRow.addIVx x
  | ldFVx x => exact EncodesItsRow.ldFVx x
  | ldBVx x => exact EncodesItsRow.ldBVx x
  | ldIndVx x => exact EncodesItsRow.ldIndVx x
  | ldVxInd x => exact EncodesItsRow.ldVxInd x

section
variable {d : InstrDef} {u w : Word}

/-- Two words of one row agree under its mask (R53). -/
theorem and_codingMask_eq_of_accepts (hu : d.accepts u = true) (hw : d.accepts w = true) :
    w &&& codingMask d.coding = u &&& codingMask d.coding := by
  rw [InstrDef.accepts, beq_iff_eq] at hu hw
  exact hw.trans hu.symm

theorem bitVec_append_inj {m n : Nat} {a b : BitVec m} {c e : BitVec n} (h : a ++ c = b ++ e) : a = b ∧ c = e := by
  have hl := congrArg (BitVec.extractLsb' n m) h
  have hr := congrArg (BitVec.extractLsb' 0 n) h
  rw [BitVec.extractLsb'_append_eq_left, BitVec.extractLsb'_append_eq_left] at hl
  rw [BitVec.extractLsb'_append_eq_right, BitVec.extractLsb'_append_eq_right] at hr
  exact ⟨hl, hr⟩

/-! Two words of one row agree in the nibbles the row fixes: the first, the first and the last, all but X, or all. -/

theorem fixed_F000 (hm : codingMask d.coding = 0xF000#16) (hu : d.accepts u = true) (hw : d.accepts w = true) :
    nibble w 3 = nibble u 3 := by
  have h := and_codingMask_eq_of_accepts hu hw
  rw [hm, and_F000, and_F000] at h
  exact (bitVec_append_inj h).1

theorem fixed_F00F (hm : codingMask d.coding = 0xF00F#16) (hu : d.accepts u = true) (hw : d.accepts w = true) :
    nibble w 3 = nibble u 3 ∧ nField w = nField u := by
  have h := and_codingMask_eq_of_accepts hu hw
  rw [hm, and_F00F, and_F00F] at h
  obtain ⟨hop, hn⟩ := bitVec_append_inj h
  exact ⟨(bitVec_append_inj hop).1, hn⟩

theorem fixed_F0FF (hm : codingMask d.coding = 0xF0FF#16) (hu : d.accepts u = true) (hw : d.accepts w = true) :
    nibble w 3 = nibble u 3 ∧ kkField w = kkField u := by
  have h := and_codingMask_eq_of_accepts hu hw
  rw [hm, and_F0FF, and_F0FF] at h
  obtain ⟨hop, hkk⟩ := bitVec_append_inj h
  exact ⟨(bitVec_append_inj hop).1, hkk⟩

theorem fixed_FFFF (hm : codingMask d.coding = 0xFFFF#16) (hu : d.accepts u = true) (hw : d.accepts w = true) :
    w = u := by
  have h := and_codingMask_eq_of_accepts hu hw
  rwa [hm, and_FFFF, and_FFFF] at h

end

section
variable {w : Word} {op : Nibble}

theorem wordNnn_eq (hop : nibble w 3 = op) : wordNnn op (nnnField w) = w :=
  hop ▸ (eq_wordNnn_fields w).symm

theorem wordXKk_eq {kk : Byte} (hop : nibble w 3 = op) (hkk : kkField w = kk) : wordXKk op (xField w) kk = w :=
  hop ▸ hkk ▸ (eq_wordXKk_fields w).symm

theorem wordXYN_eq {n : Nibble} (hop : nibble w 3 = op) (hn : nField w = n) :
    wordXYN op (xField w) (yField w) n = w :=
  hop ▸ hn ▸ (eq_wordXYN_fields w).symm

end

/-- A word of an instruction's row is the encoding of what the row reads from it: it has the fixed nibbles of the
instruction's own word, and the other nibbles are the operands read. -/
theorem encode_withOperandsOf {i : Instr} {w : Word} (h : (row (rowIndex i)).accepts w = true) :
    encode (i.withOperandsOf w) = w := by
  have hi := row_accepts_encode i
  cases i with
  | cls | ret => exact (fixed_FFFF rfl hi h).symm
  | sys | jp | call | ldINnn | jpV0 => exact wordNnn_eq ((fixed_F000 rfl hi h).trans (nibble3_wordNnn _ _))
  | seVxKk | sneVxKk | ldVxKk | addVxKk | rnd =>
    exact wordXKk_eq ((fixed_F000 rfl hi h).trans (nibble3_wordXKk _ _ _)) rfl
  | drw => exact wordXYN_eq ((fixed_F000 rfl hi h).trans (nibble3_wordXYN _ _ _ _)) rfl
  | seVxVy | ldVxVy | orVxVy | andVxVy | xorVxVy | addVxVy | subVxVy | shrVxVy | subnVxVy | shlVxVy | sneVxVy =>
    obtain ⟨hop, hn⟩ := fixed_F00F rfl hi h
    exact wordXYN_eq (hop.trans (nibble3_wordXYN _ _ _ _)) (hn.trans (nField_wordXYN _ _ _ _))
  | skp | sknp | ldVxDt | ldVxK | ldDtVx | ldStVx | addIVx | ldFVx | ldBVx | ldIndVx | ldVxInd =>
    obtain ⟨hop, hkk⟩ := fixed_F0FF rfl hi h
    exact wordXKk_eq (hop.trans (nibble3_wordXKk _ _ _)) (hkk.trans (kkField_wordXKk _ _ _))

/-- Every row is the row of an instruction: of the one it builds, whatever the raw values. -/
theorem rowIndex_surjective : Function.Surjective rowIndex := by
  have hbuild : ∀ k, rowIndex ((row k).build ⟨0, 0, 0⟩) = k := by decide
  exact fun k => ⟨_, hbuild k⟩

/-- A row accepts exactly the words that its instructions are encoded as (R53, R59). -/
theorem row_accepts_iff (k : Fin 35) (w : Word) :
    (row k).accepts w = true ↔ ∃ i, rowIndex i = k ∧ encode i = w := by
  constructor
  · intro h
    obtain ⟨i, rfl⟩ := rowIndex_surjective k
    have hindex : rowIndex (i.withOperandsOf w) = rowIndex i := by cases i <;> rfl
    exact ⟨i.withOperandsOf w, hindex, encode_withOperandsOf h⟩
  · rintro ⟨i, rfl, rfl⟩
    exact row_accepts_encode i

end Sys2Proof
end

section
/-! PROOFS. Decode and encode agree (30_encoding.md R54, R61): the row that decodes a word is the row of the instruction
the word encodes. -/

namespace Sys2Proof

open Laws

/-! ## The table by index -/

theorem eq_row_of_getElem? {j : Nat} {d : InstrDef} (h : instrTable[j]? = some d) :
    ∃ k : Fin 35, k.val = j ∧ row k = d := by
  obtain ⟨hj, rfl⟩ := List.getElem?_eq_some_iff.1 h
  exact ⟨⟨j, hj⟩, rfl, rfl⟩

theorem eq_row_of_mem {d : InstrDef} (h : d ∈ instrTable) : ∃ k, row k = d := by
  obtain ⟨j, hj, rfl⟩ := List.getElem_of_mem h
  exact ⟨⟨j, hj⟩, rfl⟩

theorem row_mem (k : Fin 35) : row k ∈ instrTable := List.getElem_mem _

/-! ## The first accepting row (R54) -/

/-- The row that decodes a word is the row of an instruction and accepts the word. -/
theorem row_of_findDef {w : Word} {d : InstrDef} (h : findDef w = some d) :
    ∃ i, d = row (rowIndex i) ∧ (row (rowIndex i)).accepts w = true := by
  obtain ⟨k, rfl⟩ := eq_row_of_mem (List.mem_of_find?_eq_some h)
  obtain ⟨i, rfl⟩ := rowIndex_surjective k
  exact ⟨i, rfl, List.find?_some (p := fun d => InstrDef.accepts d w) h⟩

/-- Some row decodes a word exactly when the word encodes an instruction. -/
theorem findDef_eq_none_iff (w : Word) : findDef w = none ↔ ∀ i, encode i ≠ w := by
  rw [findDef, List.find?_eq_none]
  constructor
  · rintro h i rfl
    exact h _ (row_mem _) (row_accepts_encode i)
  · intro h d hd hacc
    obtain ⟨k, rfl⟩ := eq_row_of_mem hd
    obtain ⟨i, -, hi⟩ := (row_accepts_iff k w).1 hacc
    exact h i hi

theorem decode_of_findDef {i : Instr} {w : Word} (h : findDef w = some (row (rowIndex i))) :
    decode w = .ok (i.withOperandsOf w) := by
  simp only [decode, h, build_extractRaw]

/-- A word that no row accepts is a miss, for the instruction decoder and for the operand extractor (R64). -/
theorem decode_of_findDef_none {w : Word} (h : findDef w = none) :
    decode w = .error (.miss w) ∧ decodeOperands w = none := by
  simp [decode, decodeOperands, h]

theorem decode_of_findDef_ne_none {w : Word} (h : findDef w ≠ none) : ∃ i, decode w = .ok i := by
  obtain ⟨d, hd⟩ := Option.ne_none_iff_exists'.1 h
  obtain ⟨i, rfl, -⟩ := row_of_findDef hd
  exact ⟨_, decode_of_findDef hd⟩

theorem encode_of_decode {w : Word} {i : Instr} (h : decode w = .ok i) : encode i = w := by
  cases hf : findDef w with
  | none => cases h.symm.trans (decode_of_findDef_none hf).1
  | some d =>
    obtain ⟨i', rfl, hacc⟩ := row_of_findDef hf
    obtain rfl : i = i'.withOperandsOf w := Except.ok.inj (h.symm.trans (decode_of_findDef hf))
    exact encode_withOperandsOf hacc

theorem nnn_ne_of_wellFormed {nnn : BitVec 12} (h : (Instr.sys nnn).wellFormed = true) :
    nnn ≠ 0x0E0#12 ∧ nnn ≠ 0x0EE#12 := by
  simpa [Instr.wellFormed] using h

/-- The first row that accepts the word of a well-formed instruction is its own: only row 3 is overlapped, by the words
of CLS and RET, which no well-formed SYS is encoded as (R61). -/
theorem findDef_encode {i : Instr} (h : i.wellFormed = true) : findDef (encode i) = some (row (rowIndex i)) := by
  cases i with
  | sys nnn =>
    obtain ⟨hcls, hret⟩ := nnn_ne_of_wellFormed h
    refine findDef_row 2 (row_accepts_encode (.sys nnn)) fun j hj => ?_
    rw [Bool.eq_false_iff]
    intro hacc
    obtain rfl | rfl : j = 0 ∨ j = 1 := by omega
    · have henc : encode .cls = encode (.sys nnn) := encode_withOperandsOf (i := .cls) hacc
      exact hcls ((nnnField_wordNnn 0 nnn).symm.trans (congrArg nnnField henc).symm)
    · have henc : encode .ret = encode (.sys nnn) := encode_withOperandsOf (i := .ret) hacc
      exact hret ((nnnField_wordNnn 0 nnn).symm.trans (congrArg nnnField henc).symm)
  | _ => exact findDef_of_accepts _ (by simp [rowIndex]) (row_accepts_encode _)

/-! ## The round trips -/

/-- Settles O1: the instruction's own row decodes its word (`findDef_encode`) and reads its operands back
(`withOperandsOf_encode`). -/
theorem decodeOfEncodeIsTheInstruction : Obligations.DecodeOfEncodeIsTheInstruction := by
  unfold Obligations.DecodeOfEncodeIsTheInstruction
  intro i h
  rw [decode_of_findDef (findDef_encode h), withOperandsOf_encode]

/-- Settles O2: the row accepts the word, so the word encodes what the row reads (`encode_of_decode`); the words of the
two ill-formed instructions decode to CLS and RET. -/
theorem encodeOfDecodeIsTheWord : Obligations.EncodeOfDecodeIsTheWord := by
  unfold Obligations.EncodeOfDecodeIsTheWord
  intro w i h
  have hw : encode i = w := encode_of_decode h
  refine ⟨?_, hw⟩
  cases i with
  | sys nnn =>
    have hcls : nnn ≠ 0x0E0#12 := by
      rintro rfl
      have : decode (encode (.sys 0x0E0)) = .ok .cls := by decide
      cases this.symm.trans (hw ▸ h)
    have hret : nnn ≠ 0x0EE#12 := by
      rintro rfl
      have : decode (encode (.sys 0x0EE)) = .ok .ret := by decide
      cases this.symm.trans (hw ▸ h)
    simp [Instr.wellFormed, hcls, hret]
  | _ => rfl

/-- Settles O3 by running the decoder on each word. -/
theorem writtenOutWordsDecode : Obligations.WrittenOutWordsDecode := by
  unfold Obligations.WrittenOutWordsDecode
  decide

end Sys2Proof
end

section
/-! PROOFS. The words that decode to nothing (30_encoding.md R63): those that encode no instruction. -/

namespace Sys2Proof

open Laws

/-- No instruction is encoded as a decode-miss word. -/
theorem not_isMissWord_encode (i : Instr) : ¬ IsMissWord (encode i) := by
  cases i with
  | cls | ret => unfold IsMissWord; decide
  | _ => simp [IsMissWord, encode]

theorem nibble_cases (op : Nibble) :
    op = 0x0 ∨ op = 0x1 ∨ op = 0x2 ∨ op = 0x3 ∨ op = 0x4 ∨ op = 0x5 ∨ op = 0x6 ∨ op = 0x7 ∨
    op = 0x8 ∨ op = 0x9 ∨ op = 0xA ∨ op = 0xB ∨ op = 0xC ∨ op = 0xD ∨ op = 0xE ∨ op = 0xF := by
  revert op
  decide

/-- The family 8XYn: a last nibble outside R63's condition is that of one of the nine rows. -/
theorem exists_encode_8XYn {w : Word} (hop : nibble w 3 = 0x8)
    (hn : ¬ (nField w = 0x8 ∨ nField w = 0x9 ∨ nField w = 0xA ∨ nField w = 0xB ∨ nField w = 0xC ∨ nField w = 0xD ∨
      nField w = 0xF)) : ∃ i, encode i = w := by
  simp only [not_or] at hn
  obtain ⟨n8, n9, nA, nB, nC, nD, nF⟩ := hn
  obtain h | h | h | h | h | h | h | h | h | h | h | h | h | h | h | h := nibble_cases (nField w)
  · exact ⟨.ldVxVy (xField w) (yField w), wordXYN_eq hop h⟩
  · exact ⟨.orVxVy (xField w) (yField w), wordXYN_eq hop h⟩
  · exact ⟨.andVxVy (xField w) (yField w), wordXYN_eq hop h⟩
  · exact ⟨.xorVxVy (xField w) (yField w), wordXYN_eq hop h⟩
  · exact ⟨.addVxVy (xField w) (yField w), wordXYN_eq hop h⟩
  · exact ⟨.subVxVy (xField w) (yField w), wordXYN_eq hop h⟩
  · exact ⟨.shrVxVy (xField w) (yField w), wordXYN_eq hop h⟩
  · exact ⟨.subnVxVy (xField w) (yField w), wordXYN_eq hop h⟩
  · exact absurd h n8
  · exact absurd h n9
  · exact absurd h nA
  · exact absurd h nB
  · exact absurd h nC
  · exact absurd h nD
  · exact ⟨.shlVxVy (xField w) (yField w), wordXYN_eq hop h⟩
  · exact absurd h nF

/-- The family FXkk: a low byte outside R63's condition is that of one of the nine rows. -/
theorem exists_encode_FXkk {w : Word} (hop : nibble w 3 = 0xF)
    (hkk : ¬ (kkField w ≠ 0x07 ∧ kkField w ≠ 0x0A ∧ kkField w ≠ 0x15 ∧ kkField w ≠ 0x18 ∧ kkField w ≠ 0x1E ∧
      kkField w ≠ 0x29 ∧ kkField w ≠ 0x33 ∧ kkField w ≠ 0x55 ∧ kkField w ≠ 0x65)) : ∃ i, encode i = w := by
  simp only [ne_eq, not_and_or, not_not] at hkk
  obtain h | h | h | h | h | h | h | h | h := hkk
  · exact ⟨.ldVxDt (xField w), wordXKk_eq hop h⟩
  · exact ⟨.ldVxK (xField w), wordXKk_eq hop h⟩
  · exact ⟨.ldDtVx (xField w), wordXKk_eq hop h⟩
  · exact ⟨.ldStVx (xField w), wordXKk_eq hop h⟩
  · exact ⟨.addIVx (xField w), wordXKk_eq hop h⟩
  · exact ⟨.ldFVx (xField w), wordXKk_eq hop h⟩
  · exact ⟨.ldBVx (xField w), wordXKk_eq hop h⟩
  · exact ⟨.ldIndVx (xField w), wordXKk_eq hop h⟩
  · exact ⟨.ldVxInd (xField w), wordXKk_eq hop h⟩

/-- Every other word is the encoding of an instruction, by its first nibble; only the families of R63 fix more. -/
theorem exists_encode_of_not_isMissWord {w : Word} (h : ¬ IsMissWord w) : ∃ i, encode i = w := by
  simp only [IsMissWord, not_or] at h
  obtain ⟨h5, h8, h9, hE, hF⟩ := h
  obtain hop | hop | hop | hop | hop | hop | hop | hop | hop | hop | hop | hop | hop | hop | hop | hop :=
    nibble_cases (nibble w 3)
  · exact ⟨.sys (nnnField w), wordNnn_eq hop⟩
  · exact ⟨.jp (nnnField w), wordNnn_eq hop⟩
  · exact ⟨.call (nnnField w), wordNnn_eq hop⟩
  · exact ⟨.seVxKk (xField w) (kkField w), wordXKk_eq hop rfl⟩
  · exact ⟨.sneVxKk (xField w) (kkField w), wordXKk_eq hop rfl⟩
  · exact ⟨.seVxVy (xField w) (yField w), wordXYN_eq hop (by_contra fun hn => h5 ⟨hop, hn⟩)⟩
  · exact ⟨.ldVxKk (xField w) (kkField w), wordXKk_eq hop rfl⟩
  · exact ⟨.addVxKk (xField w) (kkField w), wordXKk_eq hop rfl⟩
  · exact exists_encode_8XYn hop fun hn => h8 ⟨hop, hn⟩
  · exact ⟨.sneVxVy (xField w) (yField w), wordXYN_eq hop (by_contra fun hn => h9 ⟨hop, hn⟩)⟩
  · exact ⟨.ldINnn (nnnField w), wordNnn_eq hop⟩
  · exact ⟨.jpV0 (nnnField w), wordNnn_eq hop⟩
  · exact ⟨.rnd (xField w) (kkField w), wordXKk_eq hop rfl⟩
  · exact ⟨.drw (xField w) (yField w) (nField w), wordXYN_eq hop rfl⟩
  · by_cases hkk : kkField w = 0x9E
    · exact ⟨.skp (xField w), wordXKk_eq hop hkk⟩
    · exact ⟨.sknp (xField w), wordXKk_eq hop (by_contra fun hkk' => hE ⟨hop, hkk, hkk'⟩)⟩
  · exact exists_encode_FXkk hop fun hkk => hF ⟨hop, hkk⟩

/-- Some row decodes a word exactly when R63 does not list it. -/
theorem findDef_eq_none_iff_isMissWord (w : Word) : findDef w = none ↔ IsMissWord w := by
  rw [findDef_eq_none_iff]
  constructor
  · intro h
    by_contra hmiss
    obtain ⟨i, hi⟩ := exists_encode_of_not_isMissWord hmiss
    exact h i hi
  · rintro h i rfl
    exact not_isMissWord_encode i h

/-- A decode-miss word is a miss, for both decoders (R64). -/
theorem decode_of_isMissWord {w : Word} (h : IsMissWord w) :
    decode w = .error (.miss w) ∧ decodeOperands w = none :=
  decode_of_findDef_none ((findDef_eq_none_iff_isMissWord w).2 h)

/-- Settles O4: the words no row accepts are those of R63 (`findDef_eq_none_iff_isMissWord`). -/
theorem decodeMissWordsExactly : Obligations.DecodeMissWordsExactly := by
  unfold Obligations.DecodeMissWordsExactly
  exact fun w => ⟨decode_of_isMissWord, fun h =>
    decode_of_findDef_ne_none fun hnone => h ((findDef_eq_none_iff_isMissWord w).1 hnone)⟩

end Sys2Proof
end

section
/-! PROOFS. Overlap and reach of the rows (30_encoding.md R61, R62): rows whose fixed nibbles conflict accept no common
word. -/

namespace Sys2Proof

open Laws

/-- Only row 3 accepts a word that an earlier row accepts too. -/
theorem row_overlap {j k : Fin 35} {w : Word} (hjk : j < k) (hj : (row j).accepts w = true)
    (hk : (row k).accepts w = true) : k = 2 := by
  by_contra hk2
  have hno : (row j).accepts w = false := not_accepts_of_conflict (rows_conflict j k hjk hk2) hk
  exact absurd (hj.symm.trans hno) Bool.noConfusion

/-- Settles O5: the later of two overlapping rows is row 3 (`row_overlap`), so the earlier is row 1 or 2. -/
theorem onlyRow3Overlaps : Obligations.OnlyRow3Overlaps := by
  unfold Obligations.OnlyRow3Overlaps
  refine ⟨fun j k d e w hjk hd he hj hk => ?_, fun e he => ?_, by decide, by decide⟩
  · obtain ⟨j, rfl, rfl⟩ := eq_row_of_getElem? hd
    obtain ⟨k, rfl, rfl⟩ := eq_row_of_getElem? he
    obtain rfl : k = 2 := row_overlap hjk hj hk
    exact ⟨rfl, by omega⟩
  · obtain rfl : row 2 = e := Option.some.inj he
    decide

/-- A row accepts its own match value (R53). -/
theorem accepts_codingValue (d : InstrDef) : d.accepts (codingValue d.coding) = true :=
  beq_self_eq_true _

/-- Settles O6: a row accepts its match value (`accepts_codingValue`), no earlier row does, as they conflict
(`rows_conflict`); the match value of row 3 is not that of rows 1 and 2. -/
theorem everyRowIsReachable : Obligations.EveryRowIsReachable := by
  unfold Obligations.EveryRowIsReachable
  refine ⟨rfl, fun k d hd => ⟨accepts_codingValue d, fun j e hjk he => ?_⟩⟩
  obtain ⟨k, rfl, rfl⟩ := eq_row_of_getElem? hd
  obtain ⟨j, rfl, rfl⟩ := eq_row_of_getElem? he
  by_cases hk2 : k = 2
  · subst hk2
    obtain rfl | rfl : j = 0 ∨ j = 1 := by omega
    · decide
    · decide
  · exact not_accepts_of_conflict (rows_conflict j k hjk hk2) (accepts_codingValue (row k))

end Sys2Proof
end

section
/-! PROOFS. The step at a decode-miss word (30_encoding.md R64): the advanced state with the miss committed over it, as
`MISS_POLICY` says (60_exceptions.md R123). -/

namespace Sys2Proof.Machine

theorem KeepsAllBut.mono {ps qs : List Part} {s t : State} (h : KeepsAllBut ps s t) (hsub : ps ⊆ qs) :
    KeepsAllBut qs s t :=
  fun p hp => h p fun hmem => hp (hsub hmem)

/-- The advanced state: the tick, the inputs and the fetch change no other part (40_cycle_and_operands.md R69, R71). -/
theorem keeps_advance (s : State) (w : Word) :
    KeepsAllBut [.pc, .delayTimer, .soundTimer, .inputs, .fetched] s (s.latchInput.applyTick.advance w) := by
  intro p hp
  cases p with
  | pc | delayTimer | soundTimer | inputs | fetched => simp at hp
  | waitLatch | halting => exact ⟨rfl, rfl⟩
  | regs | memory => exact fun _ => rfl
  | framebuffer => exact fun _ _ => rfl
  | _ => rfl

/-- A decode-miss does what R123 says under either policy. -/
theorem State.raises_decodeMiss (s : State) (w : Word) :
    RaisesMiss .decodeMiss .decodeMiss w.toNat s (s.commitRaise (.decodeMiss w)) :=
  ⟨State.report_commitRaise s _, State.keeps_commitRaise s _,
    fun h => by simp [State.commitRaise, State.applyMissPolicy, h, Unchanged],
    fun h => by simp [State.commitRaise, State.applyMissPolicy, h]⟩

theorem step_of_isMissWord {s : State} {w : Word} (hl : s.cfg.legal = true) (hh : s.halted = false)
    (hf : s.fetchWord = some w) (hw : IsMissWord w) :
    step s = .next ((s.latchInput.applyTick.advance w).commitRaise (.decodeMiss w)) := by
  simp [step, hl, hh, hf, (decode_of_isMissWord hw).1, commit]

/-- Settles O38: the step commits a decode-miss over the advanced state (`step_of_isMissWord`), which changes the report
and the halting fields alone (`State.raises_decodeMiss`). -/
theorem stepOfAMissFollowsThePolicy : Obligations.StepOfAMissFollowsThePolicy := by
  unfold Obligations.StepOfAMissFollowsThePolicy
  intro s w hl hh hf hw
  obtain ⟨hreport, hkeeps, hskip, hhalt⟩ := (s.latchInput.applyTick.advance w).raises_decodeMiss w
  refine ⟨_, step_of_isMissWord hl hh hf hw, hkeeps .pc (by decide), hreport, fun hp => ?_, hhalt, ?_⟩
  · obtain ⟨hrunning, hcause⟩ := hskip hp
    exact ⟨hrunning.trans hh, hcause⟩
  · exact ((keeps_advance s w).mono (by simp)).trans (hkeeps.mono (by simp))

end Sys2Proof.Machine
end

section
/-! PROOFS. The spec's dispatch over the 26 operations (40_cycle_and_operands.md R75) and the dispatch by instruction are
the same machine: each row of the table hands its operation the operands of the instruction it builds. -/

namespace Sys2Proof.Machine

open Laws

/-- The operation of a row, with operands of the row's kinds, is the meaning of the instruction the row builds from the
same raw values, whatever they are (30_encoding.md R57, R59). -/
theorem commit_execute_row (k : Fin 35) (r : RawFields) (s : State) :
    commit s (execute (row k).operation ((row k).destKind.operand r.d) ((row k).srcKind.operand r.s)
      ((row k).auxKind.operand r.a) s) = exec ((row k).build r) s := by
  obtain ⟨i, rfl⟩ := rowIndex_surjective k
  cases i <;> rfl

/-- A word that a row decodes is executed as the instruction the row builds from it (30_encoding.md R58). -/
theorem executeWord_of_findDef {w : Word} {d : InstrDef} (h : findDef w = some d) (s : State) :
    executeWord w s = exec (d.build (extractRaw d.coding w)) s := by
  obtain ⟨k, rfl⟩ := eq_row_of_mem (List.mem_of_find?_eq_some h)
  rw [executeWord, decodeOperands, h]
  exact commit_execute_row k (extractRaw (row k).coding w) s

theorem executeWord_of_findDef_none {w : Word} (h : findDef w = none) (s : State) :
    executeWord w s = commit s (.raise (.decodeMiss w)) := by
  simp only [executeWord, (decode_of_findDef_none h).2]

/-- Settles O43, by the row that decodes the word: both dispatches run the instruction it builds
(`executeWord_of_findDef`), and where there is none both commit the miss. -/
theorem tableDrivenExecutionAgrees : Obligations.TableDrivenExecutionAgrees := by
  unfold Obligations.TableDrivenExecutionAgrees
  intro w s
  cases h : findDef w with
  | none => simp only [executeWord_of_findDef_none h, decode_of_findDef_none h]
  | some d => simp only [executeWord_of_findDef h, decode, h]

end Sys2Proof.Machine
end

section
/-! PROOFS. The step at a word that decodes (40_cycle_and_operands.md R69, R71): the meaning of its instruction at the
advanced state. -/

namespace Sys2Proof.Machine

/-- Settles O36: the step is the meaning of the instruction at the advanced state (`step_of_decode`), which differs from
the given one in the parts named alone (`keeps_advance`). -/
theorem stepRunsTheDecodedInstruction : Obligations.StepRunsTheDecodedInstruction := by
  unfold Obligations.StepRunsTheDecodedInstruction
  intro s w i hl hh hf hd
  exact ⟨s.latchInput.applyTick.advance w, step_of_decode hl hh hf hd, rfl, rfl, rfl, rfl, rfl, rfl,
    (keeps_advance s w).mono (by simp)⟩

end Sys2Proof.Machine
end

section
/-! PROOFS. The words of a row (30_encoding.md R53, R58): what every word of a row decodes to, as an instruction and as
an operation with its operands. -/

namespace Sys2Proof

open Laws

/-- The decoded form of an instruction: the operation of its row and the three operands (30_encoding.md R58, R59). -/
def Instr.decodedForm : Instr → Decoded
  | .cls => ⟨.cls, .unused, .unused, .unused⟩
  | .ret => ⟨.ret, .unused, .unused, .unused⟩
  | .sys nnn => ⟨.sys, .immediate12 nnn, .unused, .unused⟩
  | .jp nnn => ⟨.jump, .immediate12 nnn, .unused, .unused⟩
  | .call nnn => ⟨.call, .immediate12 nnn, .unused, .unused⟩
  | .seVxKk x kk => ⟨.skipEq, .register x, .immediate8 kk, .unused⟩
  | .sneVxKk x kk => ⟨.skipNeq, .register x, .immediate8 kk, .unused⟩
  | .seVxVy x y => ⟨.skipEq, .register x, .register y, .unused⟩
  | .ldVxKk x kk => ⟨.load, .register x, .immediate8 kk, .unused⟩
  | .addVxKk x kk => ⟨.add, .register x, .immediate8 kk, .unused⟩
  | .ldVxVy x y => ⟨.load, .register x, .register y, .unused⟩
  | .orVxVy x y => ⟨.or, .register x, .register y, .unused⟩
  | .andVxVy x y => ⟨.and, .register x, .register y, .unused⟩
  | .xorVxVy x y => ⟨.xor, .register x, .register y, .unused⟩
  | .addVxVy x y => ⟨.add, .register x, .register y, .unused⟩
  | .subVxVy x y => ⟨.sub, .register x, .register y, .unused⟩
  | .shrVxVy x y => ⟨.shiftRight, .register x, .register y, .unused⟩
  | .subnVxVy x y => ⟨.subN, .register x, .register y, .unused⟩
  | .shlVxVy x y => ⟨.shiftLeft, .register x, .register y, .unused⟩
  | .sneVxVy x y => ⟨.skipNeq, .register x, .register y, .unused⟩
  | .ldINnn nnn => ⟨.load, .indexRegister, .immediate12 nnn, .unused⟩
  | .jpV0 nnn => ⟨.jumpV0, .immediate12 nnn, .unused, .unused⟩
  | .rnd x kk => ⟨.rand, .register x, .immediate8 kk, .unused⟩
  | .drw x y n => ⟨.sprite, .register x, .register y, .immediate4 n⟩
  | .skp x => ⟨.skipKey, .register x, .unused, .unused⟩
  | .sknp x => ⟨.skipNKey, .register x, .unused, .unused⟩
  | .ldVxDt x => ⟨.load, .register x, .delayTimer, .unused⟩
  | .ldVxK x => ⟨.waitKey, .register x, .unused, .unused⟩
  | .ldDtVx x => ⟨.load, .delayTimer, .register x, .unused⟩
  | .ldStVx x => ⟨.load, .soundTimer, .register x, .unused⟩
  | .addIVx x => ⟨.add, .indexRegister, .register x, .unused⟩
  | .ldFVx x => ⟨.font, .indexRegister, .register x, .unused⟩
  | .ldBVx x => ⟨.bcd, .indirectViaIndex, .register x, .unused⟩
  | .ldIndVx x => ⟨.stash, .indirectViaIndex, .register x, .unused⟩
  | .ldVxInd x => ⟨.fetch, .unused, .register x, .unused⟩

/-- A row's decoded form of a word is that of the instruction the row builds from it. -/
theorem decoded_row (k : Fin 35) (w : Word) :
    (row k).decoded w = ((row k).build (extractRaw (row k).coding w)).decodedForm := by
  obtain ⟨i, rfl⟩ := rowIndex_surjective k
  cases i <;> rfl

/-- The words of an instruction's row, row 3 aside, decode to the row's instruction with the operands they hold. -/
theorem rowDecodes_rowIndex (i : Instr) (hi : rowIndex i ≠ 2) :
    RowDecodes (codingMask (row (rowIndex i)).coding)
      (codingValue (row (rowIndex i)).coding &&& codingMask (row (rowIndex i)).coding)
      i.withOperandsOf (fun w => (i.withOperandsOf w).decodedForm) := by
  intro w hw
  have hacc : (row (rowIndex i)).accepts w = true := beq_iff_eq.2 hw
  have h := decode_of_accepts (rowIndex i) hi hacc
  rwa [decoded_row, build_extractRaw] at h

end Sys2Proof
end

section
/-! PROOFS. Instructions that write registers and complete (10_state.md R18, R20): what their next state holds, from the
register file they leave. -/

namespace Sys2Proof.Machine

/-! ## One write -/

theorem keeps_setV (s : State) (r : RegIx) (b : Byte) : KeepsAllBut [.regs] s (s.setV r b) := by
  intro p hp
  cases p with
  | regs => simp at hp
  | waitLatch | halting => exact ⟨rfl, rfl⟩
  | inputs => exact ⟨rfl, rfl, rfl⟩
  | memory => exact fun _ => rfl
  | framebuffer => exact fun _ _ => rfl
  | _ => rfl

theorem keeps_setI (s : State) (n : Nat) : KeepsAllBut [.index] s (s.setI n) := by
  intro p hp
  cases p with
  | index => simp at hp
  | waitLatch | halting => exact ⟨rfl, rfl⟩
  | inputs => exact ⟨rfl, rfl, rfl⟩
  | regs | memory => exact fun _ => rfl
  | framebuffer => exact fun _ _ => rfl
  | _ => rfl

/-- The report of a completed instruction is the one part it adds to those the instruction writes. -/
theorem KeepsAllBut.done {ps : List Part} {s t : State} (h : KeepsAllBut ps s t) :
    KeepsAllBut (ps ++ [.report]) s t.done := by
  intro p hp
  obtain ⟨hps, hreport⟩ : p ∉ ps ∧ p ≠ .report := by simpa using hp
  exact unchanged_withReport _ _ _ hreport (h p hps)

/-! ## The next state of an instruction -/

section
variable {i : Instr} {s : State} {x : RegIx} {a f : Byte}

/-- An instruction that writes Vx alone: no flag. -/
theorem exec_setV (h : exec i s = .next (s.setV x a).done) :
    ∃ t, exec i s = .next t ∧ t.getV x = a ∧ (∀ r, r ≠ x → t.getV r = s.getV r) ∧
      ReportsOk s t ∧ KeepsAllBut [.regs, .report] s t :=
  ⟨_, h, State.getV_setV_self s x a, fun _ hr => State.getV_setV_ne hr, rfl, (keeps_setV s x a).done⟩

/-- An instruction that writes Vx and then its flag to VF, which is the value VF keeps when x = 15. -/
theorem exec_setV_flag (h : exec i s = .next ((s.setV x a).setV 15 f).done) :
    ∃ t, exec i s = .next t ∧ (x ≠ 15 → t.getV x = a) ∧ t.getV 15 = f ∧
      (∀ r, r ≠ x → r ≠ 15 → t.getV r = s.getV r) ∧ ReportsOk s t ∧ KeepsAllBut [.regs, .report] s t := by
  refine ⟨_, h, fun hx => ?_, State.getV_setV_self _ 15 f, fun r hr hf => ?_, rfl,
    ((keeps_setV s x a).trans (keeps_setV _ 15 f)).done⟩
  · exact (State.getV_setV_ne hx).trans (State.getV_setV_self s x a)
  · exact (State.getV_setV_ne hf).trans (State.getV_setV_ne hr)

end

end Sys2Proof.Machine
end

section
/-! PROOFS. The register ALU (41_alu.md): the exact values of the operations, truncated to a byte, are the operations on
bytes, and each flag is the condition its rule names. -/

namespace Sys2Proof.Machine

/-! ## Values (R77)

For Add, Rand and the bitwise operations these are the library's `BitVec.add_def`, `BitVec.ofNat_and` and the like. -/

section
variable (a b : Byte)

/-- The exact difference is raised by 0x100, which the byte does not see (R82). -/
theorem ofNat_toNat_sub : BitVec.ofNat 8 (a.toNat + 0x100 - b.toNat) = a - b := by
  apply BitVec.eq_of_toNat_eq
  rw [BitVec.toNat_ofNat, BitVec.toNat_sub]
  omega

theorem ofNat_toNat_shiftRight : BitVec.ofNat 8 (a.toNat >>> 1) = a >>> 1 := by
  rw [← BitVec.toNat_ushiftRight, BitVec.ofNat_toNat, BitVec.setWidth_eq]

theorem ofNat_toNat_shiftLeft : BitVec.ofNat 8 (a.toNat <<< 1) = a <<< 1 := rfl

end

/-! ## Flags (R78, R82, R83, R88, R89) -/

theorem carryFlag_eq (n : Nat) : carryFlag n = if 0xFF < n then 1 else 0 := by
  simp [carryFlag, flagByte]

theorem noBorrowFlag_eq (p q : Nat) : noBorrowFlag p q = if q ≤ p then 1 else 0 := by
  simp [noBorrowFlag, flagByte]

theorem shiftOutRight_toNat (b : Byte) : shiftOutRight b.toNat = if b.getLsbD 0 = true then 1 else 0 := by
  simp [shiftOutRight, flagByte, BitVec.getLsbD, Nat.testBit]

theorem shiftOutLeft_toNat (b : Byte) : shiftOutLeft b.toNat = if b.getLsbD 7 = true then 1 else 0 := by
  simp [shiftOutLeft, flagByte, BitVec.getLsbD, Nat.testBit]

/-! ## Add -/

/-- Settles O7: the sum is stored, then the carry of the exact sum (`carryFlag_eq`). -/
theorem addVxVySetsCarry : Obligations.AddVxVySetsCarry := by
  unfold Obligations.AddVxVySetsCarry
  refine ⟨rowDecodes_rowIndex (.addVxVy 0 0) (by decide), fun x y s => exec_setV_flag ?_⟩
  rw [exec, execAddVxVy_eq, ← BitVec.add_def, carryFlag_eq]

/-- Settles O8: an immediate source leaves the flag alone, so Vx is all that is written (`exec_setV`). -/
theorem addVxKkSetsNoFlag : Obligations.AddVxKkSetsNoFlag := by
  unfold Obligations.AddVxKkSetsNoFlag
  refine ⟨rowDecodes_rowIndex (.addVxKk 0 0) (by decide), fun x kk s => exec_setV ?_⟩
  rw [exec, execAddVxKk_eq, ← BitVec.add_def]

/-- Settles O9: the exact sum is truncated to the 16 bits of I, and I is all that is written (`keeps_setI`). -/
theorem addIVxIs16Bit : Obligations.AddIVxIs16Bit := by
  unfold Obligations.AddIVxIs16Bit
  refine ⟨rowDecodes_rowIndex (.addIVx 0) (by decide), fun x s => ?_⟩
  refine ⟨_, execAddIVx_eq x s, ?_, rfl, (keeps_setI s _).done⟩
  simp [BitVec.ofNat_add]

/-! ## Subtract -/

/-- Settles O10: the difference is stored, then no-borrow (`ofNat_toNat_sub`, `noBorrowFlag_eq`). -/
theorem subVxVySetsNoBorrow : Obligations.SubVxVySetsNoBorrow := by
  unfold Obligations.SubVxVySetsNoBorrow
  refine ⟨rowDecodes_rowIndex (.subVxVy 0 0) (by decide), fun x y s => exec_setV_flag ?_⟩
  rw [exec, execSubVxVy_eq, ofNat_toNat_sub, noBorrowFlag_eq]

/-- Settles O11: as for SUB, with the operands exchanged. -/
theorem subnVxVySetsNoBorrow : Obligations.SubnVxVySetsNoBorrow := by
  unfold Obligations.SubnVxVySetsNoBorrow
  refine ⟨rowDecodes_rowIndex (.subnVxVy 0 0) (by decide), fun x y s => exec_setV_flag ?_⟩
  rw [exec, execSubnVxVy_eq, ofNat_toNat_sub, noBorrowFlag_eq]

/-! ## Bitwise operations -/

/-- Settles O12: the bitwise operations commute with the truncation, and Vx is all that is written (`exec_setV`). -/
theorem bitwiseOpsSetNoFlag : Obligations.BitwiseOpsSetNoFlag := by
  unfold Obligations.BitwiseOpsSetNoFlag
  refine ⟨rowDecodes_rowIndex (.orVxVy 0 0) (by decide), rowDecodes_rowIndex (.andVxVy 0 0) (by decide),
    rowDecodes_rowIndex (.xorVxVy 0 0) (by decide), fun x y s => ⟨exec_setV ?_, exec_setV ?_, exec_setV ?_⟩⟩
  · simp [exec, execOrVxVy_eq, BitVec.ofNat_or]
  · simp [exec, execAndVxVy_eq, BitVec.ofNat_and]
  · simp [exec, execXorVxVy_eq, BitVec.ofNat_xor]

/-! ## Shifts -/

/-- Settles O13: the shifted source is stored, then its old bit 0 (`shiftOutRight_toNat`). -/
theorem shrShiftsTheSource : Obligations.ShrShiftsTheSource := by
  unfold Obligations.ShrShiftsTheSource
  refine ⟨rowDecodes_rowIndex (.shrVxVy 0 0) (by decide), fun x y s => exec_setV_flag ?_⟩
  rw [exec, execShrVxVy_eq, ofNat_toNat_shiftRight, shiftOutRight_toNat]

/-- Settles O14: the shifted source is stored, then its old bit 7 (`shiftOutLeft_toNat`). -/
theorem shlShiftsTheSource : Obligations.ShlShiftsTheSource := by
  unfold Obligations.ShlShiftsTheSource
  refine ⟨rowDecodes_rowIndex (.shlVxVy 0 0) (by decide), fun x y s => exec_setV_flag ?_⟩
  rw [exec, execShlVxVy_eq, ofNat_toNat_shiftLeft, shiftOutLeft_toNat]

/-! ## Rand -/

/-- Settles O15: the draw is whatever the state's inputs hold; the truncation commutes with the mask,
so the mask selects from the low byte of the draw. -/
theorem rndMasksTheDraw : Obligations.RndMasksTheDraw := by
  unfold Obligations.RndMasksTheDraw
  refine ⟨rowDecodes_rowIndex (.rnd 0 0) (by decide), fun x kk s => exec_setV ?_⟩
  simp [exec, execRnd_eq, BitVec.ofNat_and]

end Sys2Proof.Machine
end

section
/-! PROOFS. The two answers of an instruction that does not wait, a raise or completion, and the frame of completion. -/

namespace Sys2Proof.Machine

variable {i : Instr} {s : State} {n : Nat}

/-- What completes leaves every part, with its report, but those the instruction may write; the halting fields are
written by a raise alone (60_exceptions.md R123). -/
theorem keeps_completed {ps : List Part} (hregs : .regs ∉ ps → ∀ r, mayWriteReg i r = false)
    (hparts : ∀ p, p ∉ .regs :: .halting :: ps → mayWritePart s.cfg i p = false) :
    KeepsAllBut ps s (completed i s).done := by
  intro p hp
  have hreport : p ≠ .report := by
    rintro rfl
    cases hparts .report (by simpa using hp)
  apply unchanged_withReport _ _ _ hreport
  by_cases hr : p = .regs
  · subst hr
    exact fun r => getV_completed (hregs hp r)
  by_cases hh : p = .halting
  · subst hh
    exact ⟨completed_halted i s, completed_haltCause i s⟩
  exact unchanged_completed (hparts p (by simp [hr, hh, hp]))

theorem exec_of_raised_eq_none (hr : raised i s = none) (hw : waitsForKey i s = false) :
    exec i s = .next (completed i s).done := by
  simp [exec_eq_answer, answer, hr, hw]

theorem exec_of_raised_eq_some {r : Raise} (hr : raised i s = some r) : exec i s = .next (s.commitRaise r) := by
  simp [exec_eq_answer, answer, hr]

/-! ## An access to the n bytes from I on (20_memory.md R36) -/

/-- With its bytes inside memory the instruction completes. -/
theorem exec_of_range_in (hr : raised i s = rangeRaise s n) (hw : waitsForKey i s = false)
    (h : s.i.toNat + n ≤ s.cfg.memSize) : exec i s = .next (completed i s).done := by
  refine exec_of_raised_eq_none ?_ hw
  rw [hr, rangeRaise, (s.firstOutOfRange_eq_none n).2 (by omega), Option.map_none]

/-- With a byte outside memory it raises MEM_BOUNDS with the lowest such address, before any write. -/
theorem exec_of_range_out (hr : raised i s = rangeRaise s n) (hn : n ≠ 0) (h : s.cfg.memSize < s.i.toNat + n) :
    ∃ t, exec i s = .next t ∧ RaisesGuestError .memBounds (max s.i.toNat s.cfg.memSize) s t := by
  have hlast : s.cfg.memSize ≤ s.i.toNat + n - 1 := by omega
  refine ⟨_, exec_of_raised_eq_some ?_, s.raises_guestError _ _⟩
  simp [hr, rangeRaise, State.firstOutOfRange, hn, hlast]

end Sys2Proof.Machine
end

section
/-! PROOFS. Loads into Vx, I and the timers (42_load_store.md R92-R98). -/

namespace Sys2Proof.Machine

/-! ## Registers and the index -/

/-- Settles O16: Vx is all that either load writes (`exec_setV`). -/
theorem loadRegisterCopies : Obligations.LoadRegisterCopies := by
  unfold Obligations.LoadRegisterCopies
  exact ⟨rowDecodes_rowIndex (.ldVxKk 0 0) (by decide), rowDecodes_rowIndex (.ldVxVy 0 0) (by decide),
    fun x y kk s => ⟨exec_setV (execLdVxKk_eq x kk s), exec_setV (execLdVxVy_eq x y s)⟩⟩

/-- Settles O18: the 12-bit literal is stored exact, and I is all that is written (`keeps_setI`). -/
theorem loadIndexClearsHighBits : Obligations.LoadIndexClearsHighBits := by
  unfold Obligations.LoadIndexClearsHighBits
  refine ⟨rowDecodes_rowIndex (.ldINnn 0) (by decide), fun nnn s => ?_⟩
  exact ⟨_, execLdINnn_eq nnn s, BitVec.ofNat_toNat 16 nnn, rfl, (keeps_setI s _).done⟩

/-- Settles O20: the exact address is truncated to the 16 bits of I, and I is all that is written (`keeps_setI`). -/
theorem fontAddressesTheGlyph : Obligations.FontAddressesTheGlyph := by
  unfold Obligations.FontAddressesTheGlyph
  refine ⟨rowDecodes_rowIndex (.ldFVx 0) (by decide), fun x s => ?_⟩
  exact ⟨_, execLdFVx_eq x s, BitVec.toNat_ofNat _ _, rfl, (keeps_setI s _).done⟩

/-! ## Timers -/

theorem tickDown_true_of_ne_zero {t : Byte} (h : t ≠ 0) : tickDown true t = t - 1 :=
  (tickDown_true t).trans (if_neg h)

/-- Settles O17: Vx is all that is written (`exec_setV`), and the instruction starts from the advanced state, whose DT
the tick has decremented (`tickDown_true_of_ne_zero`). -/
theorem loadDelayTimerReadsAfterTick : Obligations.LoadDelayTimerReadsAfterTick := by
  unfold Obligations.LoadDelayTimerReadsAfterTick
  refine ⟨rowDecodes_rowIndex (.ldVxDt 0) (by decide), fun x s => exec_setV (execLdVxDt_eq x s),
    fun x s w hl hh hf hd htick hdt => ?_⟩
  have hticked : (s.latchInput.applyTick.advance w).dt = s.dt - 1 := by
    simp [htick, tickDown_true_of_ne_zero hdt]
  obtain ⟨t, ht, hx, -, -, hkeeps⟩ := exec_setV (i := .ldVxDt x) (execLdVxDt_eq x (s.latchInput.applyTick.advance w))
  have htdt : t.dt = (s.latchInput.applyTick.advance w).dt := hkeeps .delayTimer (by decide)
  exact ⟨t, (step_of_decode hl hh hf hd).trans ht, hx.trans hticked, htdt.trans hticked⟩

/-- LD DT, Vx writes DT alone (R96). -/
theorem exec_ldDtVx (x : RegIx) (s : State) :
    ∃ t, exec (.ldDtVx x) s = .next t ∧ t.dt = s.getV x ∧ ReportsOk s t ∧ KeepsAllBut [.delayTimer, .report] s t := by
  refine ⟨(completed (.ldDtVx x) s).done, rfl, by simp [completed], rfl,
    keeps_completed (fun _ _ => rfl) fun p hp => ?_⟩
  cases p with
  | delayTimer | regs | halting | report => simp at hp
  | _ => rfl

/-- LD ST, Vx writes ST alone (R97). -/
theorem exec_ldStVx (x : RegIx) (s : State) :
    ∃ t, exec (.ldStVx x) s = .next t ∧ t.st = s.getV x ∧ ReportsOk s t ∧ KeepsAllBut [.soundTimer, .report] s t := by
  refine ⟨(completed (.ldStVx x) s).done, rfl, by simp [completed], rfl,
    keeps_completed (fun _ _ => rfl) fun p hp => ?_⟩
  cases p with
  | soundTimer | regs | halting | report => simp at hp
  | _ => rfl

/-- Settles O19: each load writes its timer alone (`exec_ldDtVx`, `exec_ldStVx`); its step runs it after the tick, which
leaves Vx, so what it writes is what the step leaves. -/
theorem loadTimersWriteTheRegister : Obligations.LoadTimersWriteTheRegister := by
  unfold Obligations.LoadTimersWriteTheRegister
  refine ⟨rowDecodes_rowIndex (.ldDtVx 0) (by decide), rowDecodes_rowIndex (.ldStVx 0) (by decide),
    fun x s => ⟨exec_ldDtVx x s, exec_ldStVx x s⟩, fun x s w hl hh hf => ?_⟩
  have hx : (s.latchInput.applyTick.advance w).getV x = s.getV x := keeps_advance s w .regs (by decide) x
  constructor
  · intro hd
    obtain ⟨t, ht, hdt, -⟩ := exec_ldDtVx x (s.latchInput.applyTick.advance w)
    exact ⟨t, (step_of_decode hl hh hf hd).trans ht, hdt.trans hx⟩
  · intro hd
    obtain ⟨t, ht, hst, -⟩ := exec_ldStVx x (s.latchInput.applyTick.advance w)
    exact ⟨t, (step_of_decode hl hh hf hd).trans ht, hst.trans hx⟩

end Sys2Proof.Machine
end

section
/-! PROOFS. BCD, Stash and Fetch (42_load_store.md R99-R102): completed when all their bytes are inside memory, a raise
of MEM_BOUNDS otherwise. -/

namespace Sys2Proof.Machine

/-! ## Bytes stored from an address on -/

/-- The k-th of the bytes stored at a, a+1, ... -/
theorem State.readMem_storeBytes_add (s : State) (a : Nat) {bs : List Byte} {k : Nat} (hk : k < bs.length) :
    (s.storeBytes a bs).readMem (a + k) = bs.getD k 0 := by
  simp [State.readMem_storeBytes, hk]

theorem State.readMem_storeBytes_outside (s : State) {a a' : Nat} {bs : List Byte}
    (h : a' < a ∨ a + bs.length ≤ a') : (s.storeBytes a bs).readMem a' = s.readMem a' := by
  rw [State.readMem_storeBytes, if_neg (by omega)]

/-! ## BCD -/

theorem readMem_ldBVx (x : RegIx) (s : State) (a : Nat) :
    (completed (.ldBVx x) s).done.readMem a =
      (s.storeBytes s.i.toNat (bcdDigits (s.getV x).toNat)).readMem a := by
  rw [State.storeBytes_eq]
  rfl

/-- BCD writes memory alone: I is unchanged (R99). -/
theorem keeps_ldBVx (x : RegIx) (s : State) : KeepsAllBut [.memory, .report] s (completed (.ldBVx x) s).done := by
  refine keeps_completed (fun _ _ => rfl) fun p hp => ?_
  cases p with
  | memory | regs | halting | report => simp at hp
  | _ => rfl

/-- Each digit of a byte is below 256, so storing it as a byte keeps it. -/
theorem toNat_bcdDigits (b : Byte) :
    ((bcdDigits b.toNat).getD 0 0).toNat = b.toNat / 100 ∧ ((bcdDigits b.toNat).getD 1 0).toNat = b.toNat / 10 % 10 ∧
      ((bcdDigits b.toNat).getD 2 0).toNat = b.toNat % 10 := by
  have hb : b.toNat < 256 := b.isLt
  exact ⟨Nat.mod_eq_of_lt (by omega), Nat.mod_eq_of_lt (by omega), Nat.mod_eq_of_lt (by omega)⟩

/-- Settles O21: inside memory the three digits are stored (`toNat_bcdDigits`) and memory is all that changes
(`keeps_ldBVx`); otherwise the range check raises (`exec_of_range_out`). -/
theorem bcdStoresThreeDigits : Obligations.BcdStoresThreeDigits := by
  unfold Obligations.BcdStoresThreeDigits
  refine ⟨rowDecodes_rowIndex (.ldBVx 0) (by decide), fun x s => ⟨fun hin => ?_, fun hout => ?_⟩⟩
  · obtain ⟨h100, h10, h1⟩ := toNat_bcdDigits (s.getV x)
    have hdigit : ∀ k, k < 3 → (completed (.ldBVx x) s).done.readMem (s.i.toNat + k) =
        (bcdDigits (s.getV x).toNat).getD k 0 :=
      fun k hk => (readMem_ldBVx x s _).trans (s.readMem_storeBytes_add _ hk)
    refine ⟨_, exec_of_range_in (n := 3) rfl rfl hin, ?_, ?_, ?_, fun a ha => ?_, rfl, keeps_ldBVx x s⟩
    · exact (congrArg BitVec.toNat (hdigit 0 (by decide))).trans h100
    · exact (congrArg BitVec.toNat (hdigit 1 (by decide))).trans h10
    · exact (congrArg BitVec.toNat (hdigit 2 (by decide))).trans h1
    · exact (readMem_ldBVx x s a).trans (s.readMem_storeBytes_outside ha)
  · exact exec_of_range_out (n := 3) rfl (by decide) (Nat.lt_succ_of_le hout)

/-! ## Stash and Fetch -/

/-- I after Stash and Fetch, as a number (R100). -/
theorem State.toNat_bumpedIndex (s : State) (x : RegIx) :
    (s.bumpedIndex x).toNat =
      if s.cfg.loadStoreIncrementsI then (s.i.toNat + x.val + 1) % 0x10000 else s.i.toNat := by
  rw [State.bumpedIndex, apply_ite BitVec.toNat, BitVec.toNat_ofNat]

theorem readMem_ldIndVx (x : RegIx) (s : State) (a : Nat) :
    (completed (.ldIndVx x) s).done.readMem a = (s.storeBytes s.i.toNat (s.regsUpTo x)).readMem a := by
  rw [State.storeBytes_eq]
  rfl

/-- Stash writes memory and I alone (R101). -/
theorem keeps_ldIndVx (x : RegIx) (s : State) :
    KeepsAllBut [.memory, .index, .report] s (completed (.ldIndVx x) s).done := by
  refine keeps_completed (fun _ _ => rfl) fun p hp => ?_
  cases p with
  | memory | index | regs | halting | report => simp at hp
  | _ => rfl

/-- Settles O22: inside memory V0..Vx are stored (`readMem_ldIndVx`), and memory and I are all that changes
(`keeps_ldIndVx`); otherwise the range check raises (`exec_of_range_out`). -/
theorem stashStoresRegisters : Obligations.StashStoresRegisters := by
  unfold Obligations.StashStoresRegisters
  refine ⟨rowDecodes_rowIndex (.ldIndVx 0) (by decide), fun x s => ⟨fun hin => ?_, fun hout => ?_⟩⟩
  · refine ⟨_, exec_of_range_in (n := x.val + 1) rfl rfl hin, fun r hr => ?_, fun a ha => ?_, s.toNat_bumpedIndex x,
      rfl, keeps_ldIndVx x s⟩
    · have hr' : r.val < (s.regsUpTo x).length := s.length_regsUpTo x ▸ Nat.lt_succ_of_le hr
      rw [readMem_ldIndVx, s.readMem_storeBytes_add _ hr', s.getD_regsUpTo x r hr]
    · exact (readMem_ldIndVx x s a).trans (s.readMem_storeBytes_outside (s.length_regsUpTo x ▸ ha))
  · exact exec_of_range_out (n := x.val + 1) rfl (Nat.succ_ne_zero _) (Nat.lt_succ_of_le hout)

theorem getV_ldVxInd (x r : RegIx) (s : State) :
    (completed (.ldVxInd x) s).done.getV r = if r ≤ x then s.readMem (s.i.toNat + r.val) else s.getV r :=
  s.getV_loadRegs x r

/-- Fetch writes registers and I alone: memory is unchanged (R102). -/
theorem keeps_ldVxInd (x : RegIx) (s : State) :
    KeepsAllBut [.regs, .index, .report] s (completed (.ldVxInd x) s).done := by
  refine keeps_completed (fun h => absurd List.mem_cons_self h) fun p hp => ?_
  cases p with
  | index | regs | halting | report => simp at hp
  | _ => rfl

/-- Settles O23: inside memory V0..Vx are loaded (`getV_ldVxInd`), and registers and I are all that changes
(`keeps_ldVxInd`); otherwise the range check raises (`exec_of_range_out`). -/
theorem fetchLoadsRegisters : Obligations.FetchLoadsRegisters := by
  unfold Obligations.FetchLoadsRegisters
  refine ⟨rowDecodes_rowIndex (.ldVxInd 0) (by decide), fun x s => ⟨fun hin => ?_, fun hout => ?_⟩⟩
  · refine ⟨_, exec_of_range_in (n := x.val + 1) rfl rfl hin, fun r hr => ?_, fun r hr => ?_, s.toNat_bumpedIndex x,
      rfl, keeps_ldVxInd x s⟩
    · exact (getV_ldVxInd x r s).trans (if_pos hr)
    · exact (getV_ldVxInd x r s).trans (if_neg (not_le_of_gt hr))
  · exact exec_of_range_out (n := x.val + 1) rfl (Nat.succ_ne_zero _) (Nat.lt_succ_of_le hout)

end Sys2Proof.Machine
end

section
/-! PROOFS. The words of SYS (30_encoding.md R61, 43_control.md R113): row 3 decodes every word 0NNN that rows 1 and 2
leave it. -/

namespace Sys2Proof

open Laws

/-- The word of a well-formed instruction decodes to it, as an instruction and as an operation with its operands. -/
theorem decode_encode_of_wellFormed {i : Instr} (h : i.wellFormed = true) :
    decode (encode i) = .ok i ∧ decodeOperands (encode i) = some i.decodedForm := by
  have hrow := findDef_encode h
  constructor
  · rw [decode_of_findDef hrow, withOperandsOf_encode]
  · rw [decodeOperands, hrow, Option.map_some, decoded_row, build_extractRaw, withOperandsOf_encode]

/-- A word 0NNN is the encoding of SYS nnn. -/
theorem encode_sys_nnnField {w : Word} (h : w &&& 0xF000 = 0) : encode (.sys (nnnField w)) = w := by
  have happend : nibble w 3 ++ 0#12 = 0#4 ++ 0#12 := (and_F000 w).symm.trans h
  exact wordNnn_eq (bitVec_append_inj happend).1

/-- Rows 1 and 2 take the two words 00E0 and 00EE from row 3 (R61). -/
theorem wellFormed_sys_nnnField {w : Word} (h : w &&& 0xF000 = 0) (hcls : w ≠ 0x00E0) (hret : w ≠ 0x00EE) :
    (Instr.sys (nnnField w)).wellFormed = true := by
  have hw := encode_sys_nnnField h
  have hne_cls : nnnField w ≠ 0x0E0#12 := fun hn => hcls (hw.symm.trans (congrArg (wordNnn 0x0) hn))
  have hne_ret : nnnField w ≠ 0x0EE#12 := fun hn => hret (hw.symm.trans (congrArg (wordNnn 0x0) hn))
  simp [Instr.wellFormed, hne_cls, hne_ret]

theorem decode_sys_word {w : Word} (h : w &&& 0xF000 = 0) (hcls : w ≠ 0x00E0) (hret : w ≠ 0x00EE) :
    decode w = .ok (.sys (nnnField w)) ∧
      decodeOperands w = some ⟨.sys, .immediate12 (nnnField w), .unused, .unused⟩ := by
  have hdec := decode_encode_of_wellFormed (wellFormed_sys_nnnField h hcls hret)
  rwa [encode_sys_nnnField h] at hdec

end Sys2Proof
end

section
/-! PROOFS. Control transfer, skips and SYS (43_control.md): an instruction that completes writes pc, and CALL and RET the
stack; one that raises writes the report and the halting fields alone. -/

namespace Sys2Proof.Machine

/-! ## Writes of pc and of the stack -/

theorem keeps_withPc (s : State) (a : Word) : KeepsAllBut [.pc] s { s with pc := a } := by
  intro p hp
  cases p with
  | pc => simp at hp
  | waitLatch | halting => exact ⟨rfl, rfl⟩
  | inputs => exact ⟨rfl, rfl, rfl⟩
  | regs | memory => exact fun _ => rfl
  | framebuffer => exact fun _ _ => rfl
  | _ => rfl

theorem keeps_withStackPc (s : State) (S : List Word) (a : Word) :
    KeepsAllBut [.stack, .pc] s { s with stack := S, pc := a } := by
  intro p hp
  cases p with
  | stack | pc => simp at hp
  | waitLatch | halting => exact ⟨rfl, rfl⟩
  | inputs => exact ⟨rfl, rfl, rfl⟩
  | regs | memory => exact fun _ => rfl
  | framebuffer => exact fun _ _ => rfl
  | _ => rfl

section
variable {i : Instr} {s : State}

/-- An instruction that writes pc alone. -/
theorem exec_withPc {a : Word} (h : exec i s = .next (State.done { s with pc := a })) :
    ∃ t, exec i s = .next t ∧ t.pc = a ∧ ReportsOk s t ∧ KeepsAllBut [.pc, .report] s t :=
  ⟨_, h, rfl, rfl, (keeps_withPc s a).done⟩

/-- An instruction that writes the stack and pc alone. -/
theorem exec_withStackPc {S : List Word} {a : Word}
    (h : exec i s = .next (State.done { s with stack := S, pc := a })) :
    ∃ t, exec i s = .next t ∧ t.stack = S ∧ t.pc = a ∧ ReportsOk s t ∧ KeepsAllBut [.stack, .pc, .report] s t :=
  ⟨_, h, rfl, rfl, rfl, (keeps_withStackPc s S a).done⟩

/-- A skip, when its condition is what it compares (43_control.md R104). -/
theorem exec_skip {c : Bool} {P : Prop} [Decidable P]
    (h : exec i s = .next (State.done { s with pc := s.skippedPc c })) (hc : c = true ↔ P) :
    ∃ t, exec i s = .next t ∧ t.pc = (if P then s.pc + 2 else s.pc) ∧ ReportsOk s t ∧
      KeepsAllBut [.pc, .report] s t := by
  have hpc : s.skippedPc c = if P then s.pc + 2 else s.pc := if_congr hc rfl rfl
  exact exec_withPc (hpc ▸ h)

end

/-! ## Jumps -/

/-- The largest sum of a 12-bit target and a byte is below 0x10000, so pc does not wrap (R106). -/
theorem toNat_jpV0_target (nnn : BitVec 12) (b : Byte) :
    (BitVec.ofNat 16 (nnn.toNat + b.toNat)).toNat = nnn.toNat + b.toNat := by
  have hnnn : nnn.toNat < 0x1000 := nnn.isLt
  have hb : b.toNat < 0x100 := b.isLt
  rw [BitVec.toNat_ofNat]
  omega

/-- Settles O25: either jump writes pc alone (`exec_withPc`), and its target fits in pc (`toNat_jpV0_target`). -/
theorem jumpsSetPc : Obligations.JumpsSetPc := by
  unfold Obligations.JumpsSetPc
  refine ⟨rowDecodes_rowIndex (.jp 0) (by decide), rowDecodes_rowIndex (.jpV0 0) (by decide),
    fun nnn s => ⟨exec_withPc ?_, ?_⟩⟩
  · rw [← BitVec.ofNat_toNat]
    exact execJp_eq nnn s
  · obtain ⟨t, ht, hpc, hframe⟩ := exec_withPc (i := .jpV0 nnn) (execJpV0_eq nnn s)
    exact ⟨t, ht, hpc ▸ toNat_jpV0_target nnn (s.getV 0), hframe⟩

/-! ## Skips -/

/-- Settles O29: each skip completes and writes pc alone (`exec_skip`); the values it compares are equal as numbers
exactly when they are equal. -/
theorem skipsAdvanceByOneMoreWord : Obligations.SkipsAdvanceByOneMoreWord := by
  unfold Obligations.SkipsAdvanceByOneMoreWord
  have heq (a b : Byte) : (a.toNat == b.toNat) = true ↔ a = b := beq_iff_eq.trans BitVec.toNat_inj
  have hne (a b : Byte) : (a.toNat != b.toNat) = true ↔ a ≠ b := bne_iff_ne.trans BitVec.toNat_inj.not
  refine ⟨rowDecodes_rowIndex (.seVxKk 0 0) (by decide), rowDecodes_rowIndex (.sneVxKk 0 0) (by decide),
    rowDecodes_rowIndex (.seVxVy 0 0) (by decide), rowDecodes_rowIndex (.sneVxVy 0 0) (by decide),
    fun x y kk s => ⟨?_, ?_, ?_, ?_⟩⟩
  · exact exec_skip (exec_of_raised_eq_none rfl rfl) (heq (s.getV x) kk)
  · exact exec_skip (exec_of_raised_eq_none rfl rfl) (hne (s.getV x) kk)
  · exact exec_skip (exec_of_raised_eq_none rfl rfl) (heq (s.getV x) (s.getV y))
  · exact exec_skip (exec_of_raised_eq_none rfl rfl) (hne (s.getV x) (s.getV y))

/-! ## CALL and RET -/

/-- CALL with room pushes pc, which is a + 2, and jumps (R107). -/
theorem exec_call_of_room (nnn : BitVec 12) {s : State}
    (h : ∀ d, s.cfg.stackDepth = some d → s.stack.length < d) :
    ∃ t, exec (.call nnn) s = .next t ∧ t.stack = s.stack ++ [s.pc] ∧ t.pc = nnn.setWidth 16 ∧
      ReportsOk s t ∧ KeepsAllBut [.stack, .pc, .report] s t := by
  have hroom : s.stackFull = false := s.stackFull_eq_false_iff.2 h
  apply exec_withStackPc
  rw [exec, execCall_eq, hroom, ← BitVec.ofNat_toNat]
  rfl

/-- RET takes the last return address off the stack and jumps there (R108). -/
theorem exec_ret_of_snoc {s : State} {S : List Word} {a : Word} (h : s.stack = S ++ [a]) :
    ∃ t, exec .ret s = .next t ∧ t.stack = S ∧ t.pc = a ∧ ReportsOk s t ∧ KeepsAllBut [.stack, .pc, .report] s t :=
  exec_withStackPc (execRet_snoc h)

theorem State.stackFull_of_le {s : State} {d : Nat} (hd : s.cfg.stackDepth = some d) (hle : d ≤ s.stack.length) :
    s.stackFull = true := by
  simp [State.stackFull, hd, hle]

/-- Settles O26: with room CALL pushes and jumps (`exec_call_of_room`); on a full stack it raises, which changes nothing
else (`State.raises_guestError`). -/
theorem callPushesTheReturnAddress : Obligations.CallPushesTheReturnAddress := by
  unfold Obligations.CallPushesTheReturnAddress
  refine ⟨rowDecodes_rowIndex (.call 0) (by decide), fun nnn s => ⟨exec_call_of_room nnn, fun d hd hle => ?_⟩⟩
  have hfull : raised (.call nnn) s = some (.guestError .stackOverflow s.stack.length) :=
    if_pos (State.stackFull_of_le hd hle)
  exact ⟨_, exec_of_raised_eq_some hfull, s.raises_guestError _ _⟩

/-- Settles O27: RET pops and jumps (`exec_ret_of_snoc`); on an empty stack it raises, which changes nothing else
(`State.raises_guestError`). -/
theorem retPopsTheReturnAddress : Obligations.RetPopsTheReturnAddress := by
  unfold Obligations.RetPopsTheReturnAddress
  refine ⟨rowDecodes_rowIndex .ret (by decide), fun s => ⟨fun S a => exec_ret_of_snoc, fun hempty => ?_⟩⟩
  exact ⟨_, execRet_nil hempty, s.raises_guestError _ _⟩

/-- Settles O28: CALL puts its return address last on the stack and keeps the registers (`exec_call_of_room`), the start
of the next step changes neither (`keeps_advance` for the registers), and RET takes the address off again
(`exec_ret_of_snoc`). -/
theorem callThenRetRestoresPc : Obligations.CallThenRetRestoresPc := by
  unfold Obligations.CallThenRetRestoresPc
  intro nnn s w hroom hl hh
  obtain ⟨t, ht, hstack, -, -, hcall⟩ := exec_call_of_room nnn hroom
  refine ⟨t, ht, fun hf hd => ?_⟩
  have hcfg : t.cfg = s.cfg := hcall .config (by decide)
  obtain ⟨hhalted, -⟩ : Unchanged .halting s t := hcall .halting (by decide)
  have hpushed : (t.latchInput.applyTick.advance w).stack = s.stack ++ [s.pc] := hstack
  obtain ⟨u, hu, hustack, hupc, -, hret⟩ := exec_ret_of_snoc hpushed
  have hregs : Unchanged .regs s u :=
    ((hcall .regs (by decide)).trans (keeps_advance t w .regs (by decide))).trans (hret .regs (by decide))
  exact ⟨u, (step_of_decode (hcfg ▸ hl) (hhalted.trans hh) hf hd).trans hu, hupc, hustack, hregs⟩

/-! ## SYS -/

/-- A Sys does what R123 says under either policy. -/
theorem State.raises_sys (s : State) (n : Nat) : RaisesMiss .sys .sysUnsupported n s (s.commitRaise (.sys n)) :=
  ⟨State.report_commitRaise s _, State.keeps_commitRaise s _,
    fun h => by simp [State.commitRaise, State.applyMissPolicy, h, Unchanged],
    fun h => by simp [State.commitRaise, State.applyMissPolicy, h]⟩

/-- Settles O30: row 3 decodes the word (`decode_sys_word`), and SYS raises its outcome, which `MISS_POLICY` commits
(`State.raises_sys`). -/
theorem sysReportsAndDoesNothing : Obligations.SysReportsAndDoesNothing := by
  unfold Obligations.SysReportsAndDoesNothing
  exact ⟨fun _ => decode_sys_word, fun nnn s => ⟨_, execSys_eq nnn s, s.raises_sys nnn.toNat⟩⟩

end Sys2Proof.Machine
end

section
/-! PROOFS. Display and key input (44_display_input.md): CLS and DRW write the framebuffer, DRW its flag as well; the key
skips and LD Vx, K read the step's key snapshot. -/

namespace Sys2Proof.Machine

/-! ## CLS -/

/-- CLS writes the framebuffer alone: VF is unchanged (R115). -/
theorem keeps_cls (s : State) : KeepsAllBut [.framebuffer, .report] s (completed .cls s).done := by
  refine keeps_completed (fun _ _ => rfl) fun p hp => ?_
  cases p with
  | framebuffer | regs | halting | report => simp at hp
  | _ => rfl

/-- Settles O31: CLS writes the cleared framebuffer, whatever stood there, and nothing else (`keeps_cls`). -/
theorem clsClearsEveryPixel : Obligations.ClsClearsEveryPixel := by
  unfold Obligations.ClsClearsEveryPixel
  refine ⟨rowDecodes_rowIndex .cls (by decide), fun s => ?_⟩
  exact ⟨_, execCls_eq s, FrameBuffer.pixel_clear, rfl, keeps_cls s, _, execCls_eq _, rfl⟩

/-! ## DRW -/

/-- With its sprite inside memory, or no row to draw, DRW completes (R116). -/
theorem exec_drw_of_in (x y : RegIx) {n : Nibble} {s : State}
    (h : n = 0 ∨ s.i.toNat + n.toNat - 1 < s.cfg.memSize) :
    exec (.drw x y n) s = .next (completed (.drw x y n) s).done := by
  have hin : n.toNat = 0 ∨ s.i.toNat + n.toNat - 1 < s.cfg.memSize := h.imp_left (congrArg BitVec.toNat)
  refine exec_of_raised_eq_none ?_ rfl
  rw [raised, rangeRaise, (s.firstOutOfRange_eq_none _).2 hin, Option.map_none]

/-- DRW writes the registers and the framebuffer alone. -/
theorem keeps_drw (x y : RegIx) (n : Nibble) (s : State) :
    KeepsAllBut [.regs, .framebuffer, .report] s (completed (.drw x y n) s).done := by
  refine keeps_completed (fun h => absurd List.mem_cons_self h) fun p hp => ?_
  cases p with
  | framebuffer | regs | halting | report => simp at hp
  | _ => rfl

/-- VF after DRW is the collision of the blit, also when it was one of the coordinates (R116). -/
theorem getV_flag_drw (x y : RegIx) (n : Nibble) (s : State) :
    (completed (.drw x y n) s).done.getV 15 =
      flagByte (s.blit (s.getV x).toNat (s.getV y).toNat n.toNat).hit :=
  State.getV_setV_self s 15 _

/-- Settles O32: in range DRW completes (`exec_drw_of_in`) with the pixels and the collision of the blit (`blit_spec`)
and writes nothing else (`keeps_drw`); otherwise the range check raises (`exec_of_range_out`). -/
theorem drwXorsTheSprite : Obligations.DrwXorsTheSprite := by
  unfold Obligations.DrwXorsTheSprite
  refine ⟨rowDecodes_rowIndex (.drw 0 0 0) (by decide), fun x y n s => ⟨fun hin => ?_, fun hn hout => ?_⟩⟩
  · have hrows : n.toNat ≤ 32 := n.isLt.le.trans (by decide)
    obtain ⟨hpixels, hhit⟩ := blit_spec s (s.getV x).toNat (s.getV y).toNat n.toNat hrows
    refine ⟨_, exec_drw_of_in x y hin, hpixels, fun hmet => ?_, fun hmet => ?_,
      fun r hr => getV_completed (by simpa [mayWriteReg] using hr), rfl, keeps_drw x y n s⟩
    · rw [getV_flag_drw, hhit.2 hmet]
      rfl
    · rw [getV_flag_drw, Bool.eq_false_iff.2 (mt hhit.1 hmet)]
      rfl
  · have hn' : n.toNat ≠ 0 := fun h => hn (BitVec.eq_of_toNat_eq h)
    exact exec_of_range_out (n := n.toNat) rfl hn' (by omega)

/-! ## Drawing twice -/

/-- Where a sprite lands depends on I and the memory alone. -/
theorem spriteCovers_congr {s t : State} (hi : t.i = s.i) (hm : ∀ a, t.readMem a = s.readMem a) (cx cy n : Nat)
    (py : Fin 32) (px : Fin 64) : SpriteCovers t cx cy n py px ↔ SpriteCovers s cx cy n py px := by
  simp only [SpriteCovers, hi, hm]

/-- A set bit of the sprite lands on a pixel wherever the sprite is drawn. -/
theorem SpriteHasBit.exists_covers {s : State} {n : Nat} (h : SpriteHasBit s n) (cx cy : Nat) :
    ∃ py px, SpriteCovers s cx cy n py px := by
  obtain ⟨r, c, hr, hc, hbit⟩ := h
  exact ⟨wrapRow (cy + r), wrapCol (cx + c), r, c, hr, hc, rfl, rfl, hbit⟩

/-- Settles O33: DRW (`drwXorsTheSprite`) keeps the sprite, its place and its range, so the second draw covers the same
pixels (`spriteCovers_congr`): each is flipped twice, and is set before the second draw where it was clear before the
first. -/
theorem drwTwiceRestoresTheScreen : Obligations.DrwTwiceRestoresTheScreen := by
  unfold Obligations.DrwTwiceRestoresTheScreen
  intro x y n s hx hy hin
  obtain ⟨-, hdrw⟩ := drwXorsTheSprite
  obtain ⟨t, ht, hpix, -, -, hregs, -, hkeeps⟩ := (hdrw x y n s).1 hin
  have hcfg : t.cfg = s.cfg := hkeeps .config (by decide)
  have hi : t.i = s.i := hkeeps .index (by decide)
  have hmem : ∀ a, t.readMem a = s.readMem a := hkeeps .memory (by decide)
  obtain ⟨u, hu, hpix', hset, hclear, -⟩ := (hdrw x y n t).1 (by rwa [hcfg, hi])
  simp only [hregs x hx, hregs y hy, spriteCovers_congr hi hmem] at hpix' hset hclear
  have hflag : (∃ py px, SpriteCovers s (s.getV x).toNat (s.getV y).toNat n.toNat py px ∧
      FrameBuffer.pixel s.fb py px = false) → u.getV 15 = 1 := by
    rintro ⟨py, px, hcov, hpx⟩
    exact hset ⟨py, px, hcov, by rw [(hpix py px).1 hcov, hpx, Bool.not_false]⟩
  refine ⟨t, u, ht, hu, FrameBuffer.ext_pixel fun py px => ?_, hflag, fun hall => hclear ?_, fun hbit hoff => ?_⟩
  · by_cases hcov : SpriteCovers s (s.getV x).toNat (s.getV y).toNat n.toNat py px
    · rw [(hpix' py px).1 hcov, (hpix py px).1 hcov, Bool.not_not]
    · rw [(hpix' py px).2 hcov, (hpix py px).2 hcov]
  · rintro ⟨py, px, hcov, hpx⟩
    rw [(hpix py px).1 hcov, Bool.not_eq_true'] at hpx
    exact hall ⟨py, px, hcov, hpx⟩
  · obtain ⟨py, px, hcov⟩ := hbit.exists_covers (s.getV x).toNat (s.getV y).toNat
    exact hflag ⟨py, px, hcov, hoff py px hcov⟩

/-! ## Key skips -/

/-- Settles O34: with an index below 16 each skip completes on its condition on the snapshot (`exec_skip`); above it the
check on the index raises, which changes nothing else (`State.raises_guestError`). -/
theorem keySkipsReadTheSnapshot : Obligations.KeySkipsReadTheSnapshot := by
  unfold Obligations.KeySkipsReadTheSnapshot
  refine ⟨rowDecodes_rowIndex (.skp 0) (by decide), rowDecodes_rowIndex (.sknp 0) (by decide),
    fun x s => ⟨fun hlt => ?_, fun hge => ?_⟩⟩
  · have hkey : keyRaise (s.getV x).toNat = none := if_neg (not_le_of_gt hlt)
    exact ⟨exec_skip (exec_of_raised_eq_none hkey rfl) Iff.rfl,
      exec_skip (exec_of_raised_eq_none hkey rfl) (iff_of_eq (Bool.not_eq_true' _))⟩
  · have hkey : keyRaise (s.getV x).toNat = some (.guestError .keyIndexRange (s.getV x).toNat) := if_pos hge
    exact ⟨⟨_, exec_of_raised_eq_some hkey, s.raises_guestError _ _⟩,
      ⟨_, exec_of_raised_eq_some hkey, s.raises_guestError _ _⟩⟩

/-! ## LD Vx, K -/

/-- On the first attempt, and without a new press, the wait is retried (R120). -/
theorem exec_ldVxK_of_wait (x : RegIx) {s : State}
    (h : s.wkActive = false ∨ newPress s.wkPrev s.input.keys = none) :
    exec (.ldVxK x) s = .next (s.retryWait.withReport .waiting .noCause none) := by
  have hw : waitsForKey (.ldVxK x) s = true := by
    obtain h | h := h <;> simp [waitsForKey, h]
  simp [exec_eq_answer, answer, raised, hw]

/-- A new press completes the wait (R120). -/
theorem exec_ldVxK_of_press (x : RegIx) {s : State} {k : RegIx} (hact : s.wkActive = true)
    (h : newPress s.wkPrev s.input.keys = some k) :
    exec (.ldVxK x) s = .next (completed (.ldVxK x) s).done :=
  exec_of_raised_eq_none rfl (by simp [waitsForKey, hact, h])

/-- What a completed wait stores is the index of the key pressed. -/
theorem toNat_getV_ldVxK (x : RegIx) {s : State} {k : RegIx} (h : newPress s.wkPrev s.input.keys = some k) :
    ((completed (.ldVxK x) s).done.getV x).toNat = k.val := by
  have hx : (completed (.ldVxK x) s).done.getV x = BitVec.ofNat 8 ((newPress s.wkPrev s.input.keys).getD 0).val :=
    State.getV_setV_self s x _
  rw [hx, h, Option.getD_some]
  exact Nat.mod_eq_of_lt (k.isLt.trans (by decide))

/-- The retry, with its report, writes pc and the latch alone. -/
theorem keeps_retryWait_waiting (s : State) :
    KeepsAllBut [.waitLatch, .pc, .report] s (s.retryWait.withReport .waiting .noCause none) := by
  intro p hp
  obtain ⟨hlatch, hpc, hreport⟩ : p ≠ .waitLatch ∧ p ≠ .pc ∧ p ≠ .report := by simpa using hp
  exact unchanged_withReport _ _ _ hreport (keeps_retryWait s p (by simp [hlatch, hpc]))

/-- The completion writes Vx and the latch alone: pc, which the retry writes, stays past the word. -/
theorem keeps_ldVxK (x : RegIx) (s : State) : KeepsAllBut [.regs, .waitLatch] s (completed (.ldVxK x) s) := by
  intro p hp
  cases p with
  | regs | waitLatch => simp at hp
  | halting => exact ⟨rfl, rfl⟩
  | inputs => exact ⟨rfl, rfl, rfl⟩
  | memory => exact fun _ => rfl
  | framebuffer => exact fun _ _ => rfl
  | _ => rfl

/-- Settles O35: the lowest new press, where there is one (`newPress_some`), completes the wait (`exec_ldVxK_of_press`);
otherwise (`newPress_none`) it is retried (`exec_ldVxK_of_wait`). -/
theorem waitKeyCompletesOnANewPress : Obligations.WaitKeyCompletesOnANewPress := by
  unfold Obligations.WaitKeyCompletesOnANewPress
  refine ⟨rowDecodes_rowIndex (.ldVxK 0) (by decide), fun x s => ⟨fun hwait => ?_, fun k hact hdown hup hlow => ?_⟩⟩
  · exact ⟨_, exec_ldVxK_of_wait x (hwait.imp_right newPress_none), rfl, rfl, rfl, rfl, keeps_retryWait_waiting s⟩
  · have hpress : newPress s.wkPrev s.input.keys = some k := newPress_some hdown hup hlow
    exact ⟨_, exec_ldVxK_of_press x hact hpress, toNat_getV_ldVxK x hpress,
      fun r hr => getV_completed (by simpa [mayWriteReg] using hr), rfl, rfl, rfl, (keeps_ldVxK x s).done⟩

end Sys2Proof.Machine
end

section
/-! PROOFS. What a step reports (60_exceptions.md R121, R122), and that an error is precise (R124). -/

namespace Sys2Proof.Machine

/-! ## The raises of a step -/

/-- The raises of a step at a fetched word: an instruction's own, or the miss of the word itself. -/
def StepRaise (w : Word) (r : Raise) : Prop := instrRaise r = true ∨ r = .decodeMiss w

/-- A raise of a step is reported with a cause of its kind, which is not FETCH_BOUNDS, as a word was fetched (R122). -/
theorem StepRaise.report {w : Word} {r : Raise} (h : StepRaise w r) (s : State) :
    ∃ p, (s.commitRaise r).report = some p ∧ p.legal = true ∧ p.kind ≠ .halted ∧ p.cause ≠ .fetchBounds := by
  refine ⟨_, s.report_commitRaise r, ?_⟩
  cases r with
  | sys n => exact ⟨rfl, nofun, nofun⟩
  | decodeMiss w' => exact ⟨rfl, nofun, nofun⟩
  | guestError c n =>
    have hc : instrRaise (.guestError c n) = true := h.resolve_right nofun
    cases c with
    | stackUnderflow | stackOverflow | memBounds | keyIndexRange => exact ⟨rfl, nofun, nofun⟩
    | _ => cases hc
  | tableWiring => cases h.resolve_right nofun

/-! ## The outcome of a step -/

theorem step_of_decode_error {s : State} {w : Word} {e : DecodeError} (hl : s.cfg.legal = true)
    (hh : s.halted = false) (hf : s.fetchWord = some w) (hd : decode w = .error e) :
    step s = .next ((s.latchInput.applyTick.advance w).commitRaise (.decodeMiss w)) := by
  simp [step, hl, hh, hf, hd, commit]

/-- What a step can answer: the halted block, a fetch out of bounds, or, from the advanced state, a completed or waiting
instruction with its report, or a raise committed (R121, R123). -/
theorem step_outcome {s t : State} (h : step s = .next t) :
    (s.halted = true ∧ t = s.latchInput.commitHalted) ∨
    (s.halted = false ∧ s.fetchWord = none ∧ t = s.latchInput.applyTick.commitFetchBounds) ∨
    (s.halted = false ∧ ∃ w, s.fetchWord = some w ∧
      ((∃ k, (k = .ok ∨ k = .waiting) ∧
          t.report = some ((s.latchInput.applyTick.advance w).reportOf k .noCause none)) ∨
        (∃ r, StepRaise w r ∧ t = (s.latchInput.applyTick.advance w).commitRaise r))) := by
  obtain ⟨-, hs⟩ | ⟨-, hh, hs⟩ | ⟨-, hh, hf, hs⟩ | ⟨w, e, -, hh, hf, -, hs⟩ | ⟨w, i, -, hh, hf, -, hs⟩ :=
    step_cases s <;> rw [hs] at h
  · cases h
  · cases h
    exact .inl ⟨hh, rfl⟩
  · cases h
    exact .inr (.inl ⟨hh, hf, rfl⟩)
  · cases h
    exact .inr (.inr ⟨hh, w, hf, .inr ⟨_, .inr rfl, rfl⟩⟩)
  · obtain hok | hwait | ⟨r, hr, ht⟩ := exec_outcome h
    · exact .inr (.inr ⟨hh, w, hf, .inl ⟨.ok, .inl rfl, hok⟩⟩)
    · exact .inr (.inr ⟨hh, w, hf, .inl ⟨.waiting, .inr rfl, hwait⟩⟩)
    · exact .inr (.inr ⟨hh, w, hf, .inr ⟨r, .inl hr, ht⟩⟩)

/-- Settles O45: what reports an error is a fetch out of bounds, which does not advance (`keeps_fetchBounds_step`), or a
raise, which changes the advanced state in its report and halting fields alone (`State.keeps_commitRaise`). -/
theorem errorsArePrecise : Obligations.ErrorsArePrecise := by
  unfold Obligations.ErrorsArePrecise
  intro s t p ht hp hok hwaiting hhalted
  obtain ⟨-, rfl⟩ | ⟨-, -, rfl⟩ | ⟨-, w, -, ⟨k, hk, hreport⟩ | ⟨r, hr, rfl⟩⟩ := step_outcome ht
  · cases hp
    exact absurd rfl hhalted
  · cases hp
    exact ⟨(keeps_fetchBounds_step s).mono (by simp), rfl, rfl, rfl⟩
  · cases hreport.symm.trans hp
    obtain rfl | rfl := hk
    · exact absurd rfl hok
    · exact absurd rfl hwaiting
  · obtain ⟨p', hp', -, -, hcause⟩ := hr.report (s.latchInput.applyTick.advance w)
    obtain rfl : p' = p := Option.some.inj (hp'.symm.trans hp)
    have hkeeps := (s.latchInput.applyTick.advance w).keeps_commitRaise r
    refine ⟨((keeps_advance s w).mono (by simp)).trans (hkeeps.mono (by simp)), ?_,
      hkeeps .delayTimer (by decide), hkeeps .soundTimer (by decide)⟩
    rw [if_neg hcause]
    exact hkeeps .pc (by decide)

/-- Settles O41: under a legal configuration the step answers (`step_answers_of_legal`), and each of its outcomes
(`step_outcome`) has a report of R121's pairs, which is `Halted` for the halted block alone. -/
theorem everyStepReportsOneOutcome : Obligations.EveryStepReportsOneOutcome := by
  unfold Obligations.EveryStepReportsOneOutcome
  intro s hl
  obtain ⟨t, ht⟩ := step_answers_of_legal hl
  obtain ⟨hh, rfl⟩ | ⟨hh, -, rfl⟩ | ⟨hh, w, -, ⟨k, hk, hreport⟩ | ⟨r, hr, rfl⟩⟩ := step_outcome ht
  · exact ⟨_, _, ht, rfl, rfl, by simp [hh]⟩
  · exact ⟨_, _, ht, rfl, rfl, by simp [hh]⟩
  · obtain rfl | rfl := hk <;> exact ⟨_, _, ht, hreport, rfl, by simp [State.reportOf, hh]⟩
  · obtain ⟨p, hp, hlegal, hkind, -⟩ := hr.report (s.latchInput.applyTick.advance w)
    exact ⟨_, p, ht, hp, hlegal, by simp [hkind, hh]⟩

end Sys2Proof.Machine
end

section
/-! PROOFS. The timers over a step (60_exceptions.md R130): the tick is applied before anything else, and after it a timer
is written by its own load alone. -/

namespace Sys2Proof.Machine

/-! ## The tick -/

/-- Truncated subtraction stops at zero, as the timers do. -/
theorem toNat_tickDown (tick : Bool) (v : Byte) : (tickDown tick v).toNat = v.toNat - (if tick then 1 else 0) := by
  cases tick with
  | false => simp
  | true =>
    rw [tickDown_true, if_pos rfl]
    by_cases hv : v = 0
    · simp [hv]
    · rw [if_neg hv]
      bv_omega

/-! ## Who writes the timers -/

theorem mayWritePart_delayTimer {c : Config} {i : Instr} (h : ∀ x, i ≠ .ldDtVx x) :
    mayWritePart c i .delayTimer = false := by
  cases i with
  | ldDtVx x => exact absurd rfl (h x)
  | _ => rfl

theorem mayWritePart_soundTimer {c : Config} {i : Instr} (h : ∀ x, i ≠ .ldStVx x) :
    mayWritePart c i .soundTimer = false := by
  cases i with
  | ldStVx x => exact absurd rfl (h x)
  | _ => rfl

/-- After the tick, a running step leaves a timer that the fetched instruction, if there is one, does not write. -/
theorem timer_unchanged_after_tick {s t : State} {p : Part} (hp : p = .delayTimer ∨ p = .soundTimer)
    (ht : step s = .next t) (hh : s.halted = false)
    (hw : ∀ w i, s.fetchWord = some w → decode w = .ok i → mayWritePart s.cfg i p = false) :
    Unchanged p s.latchInput.applyTick t := by
  have hadvance (w : Word) : Unchanged p s.latchInput.applyTick (s.latchInput.applyTick.advance w) := by
    obtain rfl | rfl := hp <;> rfl
  obtain ⟨-, hs⟩ | ⟨-, hhalted, -⟩ | ⟨-, -, -, hs⟩ | ⟨w, e, -, -, -, -, hs⟩ | ⟨w, i, -, -, hf, hd, hs⟩ := step_cases s
  · cases hs.symm.trans ht
  · cases hh.symm.trans hhalted
  · cases hs.symm.trans ht
    obtain rfl | rfl := hp <;> rfl
  · cases hs.symm.trans ht
    exact (hadvance w).trans (State.keeps_commitRaise _ _ p (by obtain rfl | rfl := hp <;> decide))
  · exact (hadvance w).trans (onlyListedInstructionsWriteEachPart i _ t p (hs.symm.trans ht) (hw w i hf hd))

/-- Settles O37: a halted block is left as it is; a running one is ticked, and nothing but the timer's own load writes it
after the tick (`timer_unchanged_after_tick`), which is one less or still zero (`toNat_tickDown`). -/
theorem tickCountsDownAndStopsAtZero : Obligations.TickCountsDownAndStopsAtZero := by
  unfold Obligations.TickCountsDownAndStopsAtZero
  intro s t ht
  refine ⟨fun hh => ?_, fun hh hw => ?_, fun hh hw => ?_⟩
  · obtain ⟨-, rfl⟩ | ⟨hrunning, -⟩ | ⟨hrunning, -⟩ := step_outcome ht
    · exact ⟨rfl, rfl⟩
    · cases hrunning.symm.trans hh
    · cases hrunning.symm.trans hh
  · have hdt : t.dt = tickDown s.nextInput.tick s.dt := timer_unchanged_after_tick (.inl rfl) ht hh fun w i hf hd =>
      mayWritePart_delayTimer fun x hx => hw w x hf (hx ▸ hd)
    rw [hdt, toNat_tickDown]
  · have hst : t.st = tickDown s.nextInput.tick s.st := timer_unchanged_after_tick (.inr rfl) ht hh fun w i hf hd =>
      mayWritePart_soundTimer fun x hx => hw w x hf (hx ▸ hd)
    rw [hst, toNat_tickDown]

end Sys2Proof.Machine
end

section
/-! PROOFS. Nothing reads `DEBUG` (60_exceptions.md R134): every part of a step commutes with a change of it. -/

namespace Sys2Proof.Machine

section
variable {b : Bool} {s : State}

/-! ## An instruction -/

theorem State.applyMissPolicy_withDebug (c : Cause) :
    (s.withDebug b).applyMissPolicy c = (s.applyMissPolicy c).withDebug b := by
  simp only [State.applyMissPolicy, State.withDebug]
  split <;> rfl

theorem State.applyGuestPolicy_withDebug (c : Cause) :
    (s.withDebug b).applyGuestPolicy c = (s.applyGuestPolicy c).withDebug b := by
  simp only [State.applyGuestPolicy, State.withDebug]
  split <;> rfl

theorem State.commitRaise_withDebug (r : Raise) : (s.withDebug b).commitRaise r = (s.commitRaise r).withDebug b := by
  cases r with
  | decodeMiss | sys => simp only [State.commitRaise, State.applyMissPolicy_withDebug]; rfl
  | guestError => simp only [State.commitRaise, State.applyGuestPolicy_withDebug]; rfl
  | tableWiring => rfl

theorem raised_withDebug (i : Instr) : raised i (s.withDebug b) = raised i s := by
  cases i <;> rfl

theorem waitsForKey_withDebug (i : Instr) : waitsForKey i (s.withDebug b) = waitsForKey i s := by
  cases i <;> rfl

theorem State.storeBytes_withDebug (n : Nat) (bs : List Byte) :
    (s.withDebug b).storeBytes n bs = (s.storeBytes n bs).withDebug b := by
  induction bs generalizing s n with
  | nil => rfl
  | cons c bs ih => exact ih (s := s.writeMem n c) (n + 1)

theorem State.loadRegs_withDebug (x : RegIx) : (s.withDebug b).loadRegs x = (s.loadRegs x).withDebug b :=
  List.foldl_hom (State.withDebug b) fun t r => by
    by_cases h : r ≤ x
    · simp only [h, if_true]; rfl
    · simp only [h, if_false]

theorem completed_withDebug (i : Instr) : completed i (s.withDebug b) = (completed i s).withDebug b := by
  cases i with
  | ldBVx | ldIndVx => simp only [completed, State.storeBytes_withDebug]; rfl
  | ldVxInd => simp only [completed, State.loadRegs_withDebug]; rfl
  | _ => rfl

theorem answer_withDebug (i : Instr) : answer i (s.withDebug b) = (answer i s).withDebug b := by
  unfold answer
  rw [raised_withDebug, waitsForKey_withDebug, completed_withDebug]
  cases raised i s with
  | some r => exact State.commitRaise_withDebug r
  | none => cases waitsForKey i s <;> rfl

theorem exec_withDebug (i : Instr) : exec i (s.withDebug b) = mapNext (State.withDebug b) (exec i s) := by
  rw [exec_eq_answer, exec_eq_answer, answer_withDebug]
  rfl

/-! ## The start of a step -/

theorem State.legal_withDebug : (s.withDebug b).cfg.legal = s.cfg.legal := rfl

theorem State.fetchWord_withDebug : (s.withDebug b).fetchWord = s.fetchWord := rfl

theorem State.advanced_withDebug (w : Word) :
    (s.withDebug b).latchInput.applyTick.advance w = (s.latchInput.applyTick.advance w).withDebug b := rfl

end

/-- Settles O48, by the cases of the step: the same case is met under either value, and an instruction commutes with the
change (`exec_withDebug`), as does the commit of a miss (`State.commitRaise_withDebug`). -/
theorem debugAffectsNothing : Obligations.DebugAffectsNothing := by
  unfold Obligations.DebugAffectsNothing
  intro b s
  obtain ⟨hl, hs⟩ | ⟨hl, hh, hs⟩ | ⟨hl, hh, hf, hs⟩ | ⟨w, e, hl, hh, hf, hd, -⟩ | ⟨w, i, hl, hh, hf, hd, hs⟩ :=
    step_cases s
  all_goals have hl' := State.legal_withDebug (b := b).trans hl
  · rw [hs, step_of_illegal hl']
    rfl
  · rw [hs, step_of_halted hl' hh]
    rfl
  · rw [hs, step_of_fetchWord_none hl' hh (State.fetchWord_withDebug.trans hf)]
    rfl
  · rw [step_of_decode_error hl hh hf hd, step_of_decode_error hl' hh (State.fetchWord_withDebug.trans hf) hd,
      State.advanced_withDebug, State.commitRaise_withDebug]
    rfl
  · rw [hs, step_of_decode hl' hh (State.fetchWord_withDebug.trans hf) hd, State.advanced_withDebug, exec_withDebug]

end Sys2Proof.Machine
end

section
/-! PROOFS. The end of a run in a self-jump (70_reset_and_hazards.md R142), and the machine before its first step: the
state at creation (R136) and the program image loaded into it (R137). -/

namespace Sys2Proof.Machine

/-! ## The self-jump -/

/-- The word 1NNN whose target is the address a is the encoding of the jump to a. -/
theorem encode_jp_of_toNat {a w : Word} (ha : a.toNat < 0x1000) (hw : w.toNat = 0x1000 + a.toNat) :
    encode (.jp (a.setWidth 12)) = w := by
  apply BitVec.eq_of_toNat_eq
  rw [encode, toNat_wordNnn, BitVec.toNat_setWidth, Nat.mod_eq_of_lt ha, hw]
  rfl

/-- The jump to an address below 0x1000 sets pc to it (43_control.md R105). -/
theorem exec_jp_setWidth {a : Word} (ha : a.toNat < 0x1000) (s : State) :
    exec (.jp (a.setWidth 12)) s = .next (State.done { s with pc := a }) := by
  have htarget : BitVec.ofNat 16 (a.setWidth 12).toNat = a := by
    rw [BitVec.toNat_setWidth, Nat.mod_eq_of_lt ha, BitVec.ofNat_toNat, BitVec.setWidth_eq]
  rw [exec, execJp_eq, State.setPc, htarget]

/-- The advance of a step at a self-jump is taken back by the jump. -/
theorem step_of_selfJump {s : State} {w : Word} (hl : s.cfg.legal = true) (hh : s.halted = false)
    (hf : s.fetchWord = some w) (hpc : s.pc.toNat < 0x1000) (hw : w.toNat = 0x1000 + s.pc.toNat) :
    step s = .next (State.done { s.latchInput.applyTick.advance w with pc := s.pc }) := by
  have hd : decode w = .ok (.jp (s.pc.setWidth 12)) := by
    rw [← encode_jp_of_toNat hpc hw]
    exact decodeOfEncodeIsTheInstruction (.jp (s.pc.setWidth 12)) rfl
  rw [step_of_decode hl hh hf hd, exec_jp_setWidth hpc]

/-- With pc taken back, a step changes nothing but the timers, the inputs and the outcome. -/
theorem keeps_advance_withPc_self (s : State) (w : Word) :
    KeepsAllBut [.delayTimer, .soundTimer, .inputs, .fetched, .report] s
      (State.done { s.latchInput.applyTick.advance w with pc := s.pc }) := by
  have hkeeps : KeepsAllBut [.pc, .delayTimer, .soundTimer, .inputs, .fetched, .report] s
      (State.done { s.latchInput.applyTick.advance w with pc := s.pc }) :=
    ((keeps_advance s w).trans ((keeps_withPc _ s.pc).mono (by simp))).done
  intro p hp
  by_cases hpc : p = .pc
  · subst hpc
    rfl
  · exact hkeeps p (by simpa [hpc] using hp)

/-- A running state whose last word was a self-jump at its own address has ended its run (R142). -/
theorem State.endsRun_of_fetched {s : State} {a w : Word} (hf : s.fetched = some ⟨a, w⟩) (ha : a.toNat < 0x1000)
    (hw : w.toNat = 0x1000 + a.toNat) : s.endsRun = true := by
  simp [State.endsRun, hf, ha, hw]

/-- Settles O44: the jump takes the advance back (`step_of_selfJump`), so pc, and with it the next fetch, are as before
the step; the latched word is the self-jump that ends the run (`State.endsRun_of_fetched`). -/
theorem selfJumpRepeatsForever : Obligations.SelfJumpRepeatsForever := by
  unfold Obligations.SelfJumpRepeatsForever
  intro s w hl hh hf hpc hw
  exact ⟨_, step_of_selfJump hl hh hf hpc hw, State.endsRun_of_fetched rfl hpc hw,
    (State.fetchWord_congr rfl rfl rfl).trans hf, rfl, keeps_advance_withPc_self s w⟩

/-! ## Creation -/

/-- A created state has nothing stored, nothing pushed, no halt and no wait (10_state.md R31). -/
theorem inv_create {c : Config} (hc : c.legal = true) : Inv (State.create c) where
  legal := hc
  memWf := rfl
  depth := fun d _ => Nat.zero_le d
  cause := iff_of_true rfl rfl
  wait := waitsAtItsWord_of_inactive rfl

/-- Settles O53: reset is creation under the default configuration, which is legal (`inv_create`). -/
theorem invariantHoldsAtCreation : Obligations.InvariantHoldsAtCreation := by
  unfold Obligations.InvariantHoldsAtCreation
  exact ⟨inv_create (by decide), fun _ hc => inv_create hc⟩

/-! ## The program image -/

theorem keeps_storeBytes (s : State) (a : Nat) (bs : List Byte) : KeepsAllBut [.memory] s (s.storeBytes a bs) := by
  rw [State.storeBytes_eq]
  intro p hp
  cases p with
  | memory => simp at hp
  | waitLatch | halting => exact ⟨rfl, rfl⟩
  | inputs => exact ⟨rfl, rfl, rfl⟩
  | regs => exact fun _ => rfl
  | framebuffer => exact fun _ _ => rfl
  | _ => rfl

/-- Bytes stored inside memory keep the invariant while no wait, whose word they could overwrite, is in progress. -/
theorem Inv.storeBytes {s : State} (h : Inv s) (hk : s.wkActive = false) {a : Nat} {bs : List Byte}
    (ha : a + bs.length ≤ s.cfg.memSize) : Inv (s.storeBytes a bs) := by
  have hkeeps := keeps_storeBytes s a bs
  have hcfg : (s.storeBytes a bs).cfg = s.cfg := hkeeps .config (by decide)
  have hstack : (s.storeBytes a bs).stack = s.stack := hkeeps .stack (by decide)
  obtain ⟨hhalted, hcause⟩ : Unchanged .halting s (s.storeBytes a bs) := hkeeps .halting (by decide)
  obtain ⟨hactive, -⟩ : Unchanged .waitLatch s (s.storeBytes a bs) := hkeeps .waitLatch (by decide)
  exact {
    legal := hcfg ▸ h.legal
    memWf := State.memWf_storeBytes bs h.memWf ha
    depth := by rw [hcfg, hstack]; exact h.depth
    cause := by rw [hhalted, hcause]; exact h.cause
    wait := waitsAtItsWord_of_inactive (hactive.trans hk) }

/-- Settles O52: an image that fits is stored at `LOAD_OFFSET` (`State.readMem_storeBytes_add` inside it,
`State.readMem_storeBytes_outside` around it), which keeps the invariant of creation (`Inv.storeBytes`). -/
theorem loadedImageStandsInMemory : Obligations.LoadedImageStandsInMemory := by
  unfold Obligations.LoadedImageStandsInMemory
  intro c image hc
  constructor
  · intro hfits
    exact ⟨_, if_pos hfits, (inv_create hc).storeBytes rfl hfits,
      fun _ hk => State.readMem_storeBytes_add _ _ hk,
      fun _ ha => State.readMem_storeBytes_outside _ ha, keeps_storeBytes _ _ _⟩
  · intro hlong
    exact if_neg (Nat.not_le.2 hlong)

end Sys2Proof.Machine
end
